-- ==== Sys2Proof/Word.lean ====
section
/-! DEFINITION. The two word types of the core (00_scope.md R7, R8): bytes and 16-bit words, both unsigned. -/
namespace Sys2Proof

/-- An 8-bit value: a data register, a byte of memory, a Num operand (00_scope.md R8). -/
abbrev Byte := BitVec 8

/-- A 16-bit value: an address register, PC, SP, FP, an Addr, StringId or DataId operand (00_scope.md R8). -/
abbrev Word := BitVec 16

end Sys2Proof
end

