-- ==== Sys2Proof/Config.lean ====
section
/-! DEFINITION. The fixed numbers of the core (00_scope.md R6), the parameters a device chooses, and the free
values: constants without a body for what the spec leaves open, so that nothing can be proved of the value that stands there. -/
namespace Sys2Proof

/-- `MEM_SIZE`: MEM addresses are 0 to 65534 (00_scope.md R6, 20_memory.md R51). -/
def Config.memSize : Nat := 65535

/-- The most bytes OPS, STR or DATA may hold (00_scope.md R6). -/
def Config.regionMax : Nat := 65535

/-- `RSTR_MAX`: the longest line RSTR stores (00_scope.md R6). -/
def Config.rstrMax : Nat := 255

/-- The most bytes a frame of output or memory carries (60_exceptions.md R321, R323). -/
def Config.frameMax : Nat := 255

/-- The default of `ARG_BIAS` (00_scope.md R6, 44_stack.md R218). -/
def Config.argBias : Nat := 0

/-- The default of `MAGIC` (00_scope.md R6, 70_reset_and_hazards.md R351). -/
def Config.magic : List Byte := [0xFD, 0xA0, 0x10]

/-- An `OPCODE_MAP`: one pair for each row of the table of 30_encoding.md R86, in the table's order: the opcode byte the
device gives the row, and the byte the table gives it (00_scope.md R5). -/
abbrev OpcodeMap := List (Byte × Byte)

/-- How many rows the table of 30_encoding.md R86 has. -/
def Config.opcodeCount : Nat := 93

/-- The parameters the spec leaves to a device and gives a default (00_scope.md R5, R6; log 1). -/
structure Params where
  /-- `OPCODE_MAP` (30_encoding.md R86). -/
  opcodeMap : OpcodeMap
  /-- `ARG_BIAS` (44_stack.md R218). -/
  argBias : Nat
  /-- `MAGIC` (70_reset_and_hazards.md R351). -/
  magic : List Byte
deriving DecidableEq, Repr

/-- `NAME_MAX` (00_scope.md R6). -/
def Config.nameMax : Nat := 20

/-- `VER_MAX` (00_scope.md R6). -/
def Config.verMax : Nat := 10

/-- No write of a host file reaches this position (60_exceptions.md R316, 92_eei_decisions.md D42). -/
def Config.fileTop : Nat := 4294967295

/-- `prng_init`, open: the PRNG state after reset (10_state.md R34). Free value, log 6. -/
opaque Config.prngInit : Nat

/-- `prng_next`, open: the byte RAND gives and the PRNG state after it (47_input_misc.md R278). Free value, log 6. -/
opaque Config.prngNext : Nat → Byte × Nat

/-- `seed_extend`, open: the PRNG state SEED makes of a byte, a function of the byte (47_input_misc.md R279).
Free value, log 6. -/
opaque Config.seedExtend : Byte → Nat

/-- The answer of `kb_ready` where the state lists none, by draw number (60_exceptions.md R312). Free value, log 7. -/
opaque Config.kbReady : Nat → Bool

/-- The seconds `clock` gives where the state lists no reading, by draw number (60_exceptions.md R313). Log 7. -/
opaque Config.clockSeconds : Nat → Byte

/-- The minutes `clock` gives where the state lists no reading, by draw number. Free value, log 7. -/
opaque Config.clockMinutes : Nat → Byte

/-- The hours `clock` gives where the state lists no reading, by draw number. Free value, log 7. -/
opaque Config.clockHours : Nat → Byte

/-- `CRASH_TAG`, open: the text of a trap's one-line tag, by trap code (60_exceptions.md R305). Free value, log 11. -/
opaque Config.crashTag : Nat → List Byte

/-- `DUMP_TEXT`, open: the direct-mode rendering of a 16-byte dump (10_state.md R39). Free value, log 11. -/
opaque Config.dumpText : List Byte → List Byte

/-- `DUMP_TEXT`, open: the JSON text of a 16-byte dump in a `d` frame (60_exceptions.md R321). Free value, log 11. -/
opaque Config.dumpJson : List Byte → List Byte

/-- The exit code of a run that ended in a trap, by trap code, is one more than this: nonzero, otherwise open
(70_reset_and_hazards.md R365). Free value, log 21. -/
opaque Config.crashExit : Nat → Nat

/-- The exit code of a cancelled run is one more than this (70_reset_and_hazards.md R365). Free value, log 21. -/
opaque Config.cancelExit : Nat

/-- The exit code of a boot from a bad tape file, by the file, is one more than this (70_reset_and_hazards.md R352,
R365). Free value, log 21. -/
opaque Config.imageExit : List Byte → Nat

/-- The diagnostic printed for a bad tape file, by the file: open (70_reset_and_hazards.md R352). Free value, log 21. -/
opaque Config.imageDiagnostic : List Byte → List Byte

end Sys2Proof
end

