-- ==== Sys2Proof/Syntax.lean ====
section
/-! DEFINITION. The syntax: operand types, instruction formats, one constructor of Instr per row of
spec/opcode_table.json (30_encoding.md R81, R84, R86), and the tape file's image (70_reset_and_hazards.md R351). -/
namespace Sys2Proof

/-- A data register: the accumulator and D0 to D3 (10_state.md R21). A register operand of an instruction is one of
these names, so an instruction with an illegal register cannot be written down. -/
inductive DataReg where
  | acc | d0 | d1 | d2 | d3
deriving DecidableEq, Repr

/-- An address register (10_state.md R23). -/
inductive AddrReg where
  | a0 | a1
deriving DecidableEq, Repr

/-- A Num operand: an unsigned 8-bit value (30_encoding.md R81). -/
abbrev Num := Byte

/-- An Addr operand: an ops offset, a MEM address or a literal (30_encoding.md R81). -/
abbrev Addr := Word

/-- A StringId operand: a byte offset into STR (30_encoding.md R81). -/
abbrev StringId := Word

/-- A DataId operand: a byte offset into DATA (30_encoding.md R81). -/
abbrev DataId := Word

/-- The operand types, by the letters r a n w s t (30_encoding.md R81). -/
inductive FieldKind where
  | dataReg | addrReg | num | addr | stringId | dataId
deriving DecidableEq, Repr

/-- The 22 instruction formats, named by their operand letters; `bare` is the format `-` (30_encoding.md R84). -/
inductive Format where
  | bare | r | a | n | w | s | rr | rn | ra | aa | an | nr | nn | na | aw | nw | tn | tr | arr | rra | atnn | atrr
deriving DecidableEq, Repr

/-- Why bytes are no instruction, in the order the decoder checks (30_encoding.md R85, 60_exceptions.md R307). -/
inductive DecodeError where
  /-- The opcode byte is not in the opcode map. -/
  | badOpcode
  /-- The instruction's bytes run past the end. -/
  | truncated
  /-- A register operand byte names no register. -/
  | badRegister
deriving DecidableEq, Repr

/-- The instructions: one constructor per row of the opcode table, named by mnemonic and format. -/
inductive Instr where
  /-- ADD r r, opcode 0x01 (41_alu.md R111). -/
  | addRR (x : DataReg) (y : DataReg)
  /-- ADD r n, opcode 0x02 (41_alu.md R112). -/
  | addRN (x : DataReg) (y : Num)
  /-- ADD r a, opcode 0x03 (41_alu.md R113). -/
  | addRA (x : DataReg) (y : AddrReg)
  /-- SUB r r, opcode 0x04 (41_alu.md R114). -/
  | subRR (x : DataReg) (y : DataReg)
  /-- SUB r n, opcode 0x05 (41_alu.md R115). -/
  | subRN (x : DataReg) (y : Num)
  /-- SUB r a, opcode 0x06 (41_alu.md R116). -/
  | subRA (x : DataReg) (y : AddrReg)
  /-- INC r, opcode 0x07 (41_alu.md R117). -/
  | incR (x : DataReg)
  /-- INC a, opcode 0x08 (41_alu.md R118). -/
  | incA (x : AddrReg)
  /-- DEC r, opcode 0x09 (41_alu.md R119). -/
  | decR (x : DataReg)
  /-- DEC a, opcode 0x0A (41_alu.md R120). -/
  | decA (x : AddrReg)
  /-- AND r r, opcode 0x0B (41_alu.md R121). -/
  | andRR (x : DataReg) (y : DataReg)
  /-- AND r n, opcode 0x0C (41_alu.md R122). -/
  | andRN (x : DataReg) (y : Num)
  /-- OR r r, opcode 0x0D (41_alu.md R123). -/
  | orRR (x : DataReg) (y : DataReg)
  /-- OR r n, opcode 0x0E (41_alu.md R124). -/
  | orRN (x : DataReg) (y : Num)
  /-- XOR r r, opcode 0x0F (41_alu.md R125). -/
  | xorRR (x : DataReg) (y : DataReg)
  /-- XOR r n, opcode 0x10 (41_alu.md R126). -/
  | xorRN (x : DataReg) (y : Num)
  /-- NOT r, opcode 0x11 (41_alu.md R127). -/
  | notR (x : DataReg)
  /-- CPY r r, opcode 0x12 (42_data_movement.md R140). -/
  | cpyRR (x : DataReg) (y : DataReg)
  /-- CPY r n, opcode 0x13 (42_data_movement.md R141). -/
  | cpyRN (x : DataReg) (y : Num)
  /-- CPY r a, opcode 0x14 (42_data_movement.md R142). -/
  | cpyRA (x : DataReg) (y : AddrReg)
  /-- CPY a a, opcode 0x15 (42_data_movement.md R143). -/
  | cpyAA (x : AddrReg) (y : AddrReg)
  /-- CPY a w, opcode 0x16 (42_data_movement.md R144). -/
  | cpyAW (x : AddrReg) (y : Addr)
  /-- CPY a r r, opcode 0x17 (42_data_movement.md R145). -/
  | cpyARR (x : AddrReg) (y : DataReg) (z : DataReg)
  /-- CPY r r a, opcode 0x18 (42_data_movement.md R146). -/
  | cpyRRA (x : DataReg) (y : DataReg) (z : AddrReg)
  /-- SWP r r, opcode 0x19 (42_data_movement.md R147). -/
  | swpRR (x : DataReg) (y : DataReg)
  /-- SWP a a, opcode 0x1A (42_data_movement.md R148). -/
  | swpAA (x : AddrReg) (y : AddrReg)
  /-- MEMR w, opcode 0x1B (42_data_movement.md R149). -/
  | memrW (x : Addr)
  /-- MEMR a, opcode 0x1C (42_data_movement.md R150). -/
  | memrA (x : AddrReg)
  /-- MEMW w, opcode 0x1D (42_data_movement.md R151). -/
  | memwW (x : Addr)
  /-- MEMW a, opcode 0x1E (42_data_movement.md R152). -/
  | memwA (x : AddrReg)
  /-- MEMC a a, opcode 0x1F (42_data_movement.md R153). -/
  | memcAA (x : AddrReg) (y : AddrReg)
  /-- LD a t n n, opcode 0x20 (42_data_movement.md R155). -/
  | ldATNN (x : AddrReg) (y : DataId) (z : Num) (u : Num)
  /-- LD a t r r, opcode 0x21 (42_data_movement.md R156). -/
  | ldATRR (x : AddrReg) (y : DataId) (z : DataReg) (u : DataReg)
  /-- LEN t n, opcode 0x22 (42_data_movement.md R158). -/
  | lenTN (x : DataId) (y : Num)
  /-- LEN t r, opcode 0x23 (42_data_movement.md R159). -/
  | lenTR (x : DataId) (y : DataReg)
  /-- CMP r r, opcode 0x24 (43_compare_control.md R181). -/
  | cmpRR (x : DataReg) (y : DataReg)
  /-- CMP r n, opcode 0x25 (43_compare_control.md R182). -/
  | cmpRN (x : DataReg) (y : Num)
  /-- CMP r a, opcode 0x26 (43_compare_control.md R183). -/
  | cmpRA (x : DataReg) (y : AddrReg)
  /-- CMP a a, opcode 0x27 (43_compare_control.md R184). -/
  | cmpAA (x : AddrReg) (y : AddrReg)
  /-- JMP w, opcode 0x28 (43_compare_control.md R186). -/
  | jmpW (x : Addr)
  /-- JMP a, opcode 0x29 (43_compare_control.md R187). -/
  | jmpA (x : AddrReg)
  /-- JE w, opcode 0x2A (43_compare_control.md R189). -/
  | jeW (x : Addr)
  /-- JE a, opcode 0x2B (43_compare_control.md R190). -/
  | jeA (x : AddrReg)
  /-- JNE w, opcode 0x2C (43_compare_control.md R191). -/
  | jneW (x : Addr)
  /-- JNE a, opcode 0x2D (43_compare_control.md R192). -/
  | jneA (x : AddrReg)
  /-- JL w, opcode 0x2E (43_compare_control.md R193). -/
  | jlW (x : Addr)
  /-- JL a, opcode 0x2F (43_compare_control.md R194). -/
  | jlA (x : AddrReg)
  /-- JG w, opcode 0x30 (43_compare_control.md R195). -/
  | jgW (x : Addr)
  /-- JG a, opcode 0x31 (43_compare_control.md R196). -/
  | jgA (x : AddrReg)
  /-- OVER w, opcode 0x32 (43_compare_control.md R197). -/
  | overW (x : Addr)
  /-- OVER a, opcode 0x33 (43_compare_control.md R198). -/
  | overA (x : AddrReg)
  /-- NOVER w, opcode 0x34 (43_compare_control.md R199). -/
  | noverW (x : Addr)
  /-- NOVER a, opcode 0x35 (43_compare_control.md R200). -/
  | noverA (x : AddrReg)
  /-- CALL w, opcode 0x36 (43_compare_control.md R201). -/
  | callW (x : Addr)
  /-- CALL a, opcode 0x37 (43_compare_control.md R202). -/
  | callA (x : AddrReg)
  /-- RET, opcode 0x38 (43_compare_control.md R203). -/
  | ret
  /-- PUSH r, opcode 0x39 (44_stack.md R213). -/
  | pushR (x : DataReg)
  /-- PUSH n, opcode 0x3A (44_stack.md R214). -/
  | pushN (x : Num)
  /-- PUSH a, opcode 0x3B (44_stack.md R215). -/
  | pushA (x : AddrReg)
  /-- POP r, opcode 0x3C (44_stack.md R216). -/
  | popR (x : DataReg)
  /-- POP a, opcode 0x3D (44_stack.md R217). -/
  | popA (x : AddrReg)
  /-- ARG r n, opcode 0x3E (44_stack.md R218). -/
  | argRN (x : DataReg) (y : Num)
  /-- ARG a n, opcode 0x3F (44_stack.md R219). -/
  | argAN (x : AddrReg) (y : Num)
  /-- PRT r, opcode 0x40 (45_print.md R232). -/
  | prtR (x : DataReg)
  /-- PRT n, opcode 0x41 (45_print.md R233). -/
  | prtN (x : Num)
  /-- PRTC r, opcode 0x42 (45_print.md R234). -/
  | prtcR (x : DataReg)
  /-- PRTC n, opcode 0x43 (45_print.md R235). -/
  | prtcN (x : Num)
  /-- PRTS s, opcode 0x44 (45_print.md R236). -/
  | prtsS (x : StringId)
  /-- PRTLN, opcode 0x45 (45_print.md R237). -/
  | prtln
  /-- PRTD a, opcode 0x46 (45_print.md R238). -/
  | prtdA (x : AddrReg)
  /-- MEMP a, opcode 0x47 (45_print.md R239). -/
  | mempA (x : AddrReg)
  /-- DEBUG, opcode 0x48 (45_print.md R240). -/
  | debug
  /-- FOPEN n, opcode 0x49 (46_files.md R252). -/
  | fopenN (x : Num)
  /-- FILER n w, opcode 0x4A (46_files.md R253). -/
  | filerNW (x : Num) (y : Addr)
  /-- FILER n a, opcode 0x4B (46_files.md R254). -/
  | filerNA (x : Num) (y : AddrReg)
  /-- FILEW n w, opcode 0x4C (46_files.md R255). -/
  | filewNW (x : Num) (y : Addr)
  /-- FILEW n a, opcode 0x4D (46_files.md R256). -/
  | filewNA (x : Num) (y : AddrReg)
  /-- FILEW n r, opcode 0x4E (46_files.md R257). -/
  | filewNR (x : Num) (y : DataReg)
  /-- FILEW n n, opcode 0x4F (46_files.md R258). -/
  | filewNN (x : Num) (y : Num)
  /-- FSKIP n r, opcode 0x50 (46_files.md R259). -/
  | fskipNR (x : Num) (y : DataReg)
  /-- FSEEK n, opcode 0x51 (46_files.md R260). -/
  | fseekN (x : Num)
  /-- FCHK n w, opcode 0x52 (46_files.md R261). -/
  | fchkNW (x : Num) (y : Addr)
  /-- FCHK n a, opcode 0x53 (46_files.md R262). -/
  | fchkNA (x : Num) (y : AddrReg)
  /-- IPOLL w, opcode 0x54 (47_input_misc.md R271). -/
  | ipollW (x : Addr)
  /-- IPOLL a, opcode 0x55 (47_input_misc.md R272). -/
  | ipollA (x : AddrReg)
  /-- RCHR r, opcode 0x56 (47_input_misc.md R273). -/
  | rchrR (x : DataReg)
  /-- RSTR w, opcode 0x57 (47_input_misc.md R274). -/
  | rstrW (x : Addr)
  /-- RSTR a, opcode 0x58 (47_input_misc.md R275). -/
  | rstrA (x : AddrReg)
  /-- NOP, opcode 0x59 (47_input_misc.md R276). -/
  | nop
  /-- HALT, opcode 0x5A (47_input_misc.md R277). -/
  | halt
  /-- RAND r, opcode 0x5B (47_input_misc.md R278). -/
  | randR (x : DataReg)
  /-- SEED r, opcode 0x5C (47_input_misc.md R279). -/
  | seedR (x : DataReg)
  /-- TIME, opcode 0x5D (47_input_misc.md R280). -/
  | time
deriving DecidableEq, Repr

/-- A tape file's content (70_reset_and_hazards.md R351). -/
structure Image where
  name : List Byte
  version : List Byte
  ops : List Byte
  strings : List Byte
  data : List Byte
deriving DecidableEq, Repr

/-- Why a tape file is refused by the loader (70_reset_and_hazards.md R352). -/
inductive ImageError where
  /-- The file ends before a field is complete. -/
  | short
  /-- The first three bytes are not MAGIC. -/
  | badMagic
  /-- The name is longer than NAME_MAX. -/
  | nameTooLong
  /-- The version is longer than VER_MAX. -/
  | versionTooLong
  /-- Bytes follow the data field. -/
  | trailing
deriving DecidableEq, Repr

end Sys2Proof
end

