-- ==== Sys2Proof/WellFormed.lean ====
section
/-! DEFINITION. Well-formedness of what is not well-formed by its type. An Instr is: its register operands are names,
its other operands have the width of their field. The checks here are on raw bytes and images: which operand bytes an
instruction may have (30_encoding.md R81, R88), which parameters a device may have (00_scope.md R6) and which images a tape file can hold (70_reset_and_hazards.md R351). -/
namespace Sys2Proof

/-- How many bytes an operand of this type takes (30_encoding.md R81). -/
def FieldKind.size : FieldKind → Nat
  | .dataReg | .addrReg | .num => 1
  | .addr | .stringId | .dataId => 2

/-- `operandsLegal ks bs`: the bytes `bs` hold the operand fields `ks` in order, each whole, and every register byte
names a register: a DataReg code is 0 to 4, an AddrReg code 0 or 1; every other value is legal (30_encoding.md R88). -/
def operandsLegal : List FieldKind → List Byte → Bool
  | [], _ => true
  | .dataReg :: ks, b :: bs => decide (b.toNat ≤ 4) && operandsLegal ks bs
  | .addrReg :: ks, b :: bs => decide (b.toNat ≤ 1) && operandsLegal ks bs
  | .num :: ks, _ :: bs => operandsLegal ks bs
  | .addr :: ks, _ :: _ :: bs => operandsLegal ks bs
  | .stringId :: ks, _ :: _ :: bs => operandsLegal ks bs
  | .dataId :: ks, _ :: _ :: bs => operandsLegal ks bs
  | _, _ => false

/-- The bytes that the table of 30_encoding.md R86 gives its rows, in order: 0x01 to 0x5D. -/
def tableOpcodes : List Byte :=
  (List.range Config.opcodeCount).map fun k => BitVec.ofNat 8 (k + 1)

/-- An opcode map gives every row of the table one byte and no two rows the same (00_scope.md R5, 30_encoding.md R86). -/
def OpcodeMap.wellFormed (m : OpcodeMap) : Bool :=
  decide (m.map Prod.snd = tableOpcodes) && decide (m.map Prod.fst).Nodup

/-- Parameters a device can have: an opcode map, and a magic that fills its field (70_reset_and_hazards.md R351). -/
def Params.wellFormed (p : Params) : Bool :=
  OpcodeMap.wellFormed p.opcodeMap && decide (p.magic.length = 3)

/-- An image a tape file can hold: the header's limits and regions whose lengths fit 16 bits
(70_reset_and_hazards.md R351). -/
def Image.wellFormed (i : Image) : Bool :=
  decide (i.name.length ≤ Config.nameMax) && decide (i.version.length ≤ Config.verMax) &&
    decide (i.ops.length ≤ Config.regionMax) && decide (i.strings.length ≤ Config.regionMax) &&
    decide (i.data.length ≤ Config.regionMax)

end Sys2Proof
end

