-- ==== Sys2Proof/Decode.lean ====
section
/-! DEFINITION. The decoder, total on any bytes, rejecting by name, and the encoder (30_encoding.md R80 to R89). -/
namespace Sys2Proof

/-- `be16(h, l)`: the 16-bit value with high byte h and low byte l (00_scope.md R7). -/
def be16 (h l : Byte) : Word := BitVec.ofNat 16 (h.toNat * 256 + l.toNat)

/-- `v[15:8]` (00_scope.md R7). -/
def hiByte (v : Word) : Byte := v.extractLsb' 8 8

/-- `v[7:0]` (00_scope.md R7). -/
def loByte (v : Word) : Byte := v.extractLsb' 0 8

/-- The code of a data register: ACC=0, D0=1, D1=2, D2=3, D3=4 (10_state.md R21). -/
def DataReg.code : DataReg → Byte
  | .acc => 0
  | .d0 => 1
  | .d1 => 2
  | .d2 => 3
  | .d3 => 4

/-- The code of an address register: A0=0, A1=1 (10_state.md R23). -/
def AddrReg.code : AddrReg → Byte
  | .a0 => 0
  | .a1 => 1

/-- The data register a code names; used only on the codes that `registersOk` lets through. -/
def dregOf (b : Byte) : DataReg :=
  match b.toNat with
  | 0 => .acc
  | 1 => .d0
  | 2 => .d1
  | 3 => .d2
  | _ => .d3

/-- The address register a code names; used only on the codes that `registersOk` lets through. -/
def aregOf (b : Byte) : AddrReg :=
  match b.toNat with
  | 0 => .a0
  | _ => .a1

/-- The operand fields of a format, in order (30_encoding.md R84). -/
def Format.fields : Format → List FieldKind
  | .bare => []
  | .r => [.dataReg]
  | .a => [.addrReg]
  | .n => [.num]
  | .w => [.addr]
  | .s => [.stringId]
  | .rr => [.dataReg, .dataReg]
  | .rn => [.dataReg, .num]
  | .ra => [.dataReg, .addrReg]
  | .aa => [.addrReg, .addrReg]
  | .an => [.addrReg, .num]
  | .nr => [.num, .dataReg]
  | .nn => [.num, .num]
  | .na => [.num, .addrReg]
  | .aw => [.addrReg, .addr]
  | .nw => [.num, .addr]
  | .tn => [.dataId, .num]
  | .tr => [.dataId, .dataReg]
  | .arr => [.addrReg, .dataReg, .dataReg]
  | .rra => [.dataReg, .dataReg, .addrReg]
  | .atnn => [.addrReg, .dataId, .num, .num]
  | .atrr => [.addrReg, .dataId, .dataReg, .dataReg]

/-- The length of an instruction of a format: the opcode byte and the operand fields (30_encoding.md R84). -/
def Format.length (f : Format) : Nat :=
  1 + (f.fields.map FieldKind.size).sum

/-- The decoder's register checks, left to right, over the operand bytes (30_encoding.md R85). -/
def registersOk : List FieldKind → List Byte → Bool
  | [], _ => true
  | .dataReg :: ks, bs => (match bs with | b :: _ => decide (b.toNat ≤ 4) | [] => false) && registersOk ks (bs.drop 1)
  | .addrReg :: ks, bs => (match bs with | b :: _ => decide (b.toNat ≤ 1) | [] => false) && registersOk ks (bs.drop 1)
  | k :: ks, bs => registersOk ks (bs.drop k.size)

/-- The table of 30_encoding.md R86: the format and the instruction of the bytes `b 0`, `b 1`, … (`byte(i)` of
00_scope.md R7), by the opcode byte `b 0` of the default opcode map. -/
def opcodeRow (b : Nat → Byte) : Option (Format × Instr) :=
  match (b 0).toNat with
  | 0x01 => some (.rr, .addRR (dregOf (b 1)) (dregOf (b 2)))
  | 0x02 => some (.rn, .addRN (dregOf (b 1)) (b 2))
  | 0x03 => some (.ra, .addRA (dregOf (b 1)) (aregOf (b 2)))
  | 0x04 => some (.rr, .subRR (dregOf (b 1)) (dregOf (b 2)))
  | 0x05 => some (.rn, .subRN (dregOf (b 1)) (b 2))
  | 0x06 => some (.ra, .subRA (dregOf (b 1)) (aregOf (b 2)))
  | 0x07 => some (.r, .incR (dregOf (b 1)))
  | 0x08 => some (.a, .incA (aregOf (b 1)))
  | 0x09 => some (.r, .decR (dregOf (b 1)))
  | 0x0A => some (.a, .decA (aregOf (b 1)))
  | 0x0B => some (.rr, .andRR (dregOf (b 1)) (dregOf (b 2)))
  | 0x0C => some (.rn, .andRN (dregOf (b 1)) (b 2))
  | 0x0D => some (.rr, .orRR (dregOf (b 1)) (dregOf (b 2)))
  | 0x0E => some (.rn, .orRN (dregOf (b 1)) (b 2))
  | 0x0F => some (.rr, .xorRR (dregOf (b 1)) (dregOf (b 2)))
  | 0x10 => some (.rn, .xorRN (dregOf (b 1)) (b 2))
  | 0x11 => some (.r, .notR (dregOf (b 1)))
  | 0x12 => some (.rr, .cpyRR (dregOf (b 1)) (dregOf (b 2)))
  | 0x13 => some (.rn, .cpyRN (dregOf (b 1)) (b 2))
  | 0x14 => some (.ra, .cpyRA (dregOf (b 1)) (aregOf (b 2)))
  | 0x15 => some (.aa, .cpyAA (aregOf (b 1)) (aregOf (b 2)))
  | 0x16 => some (.aw, .cpyAW (aregOf (b 1)) (be16 (b 2) (b 3)))
  | 0x17 => some (.arr, .cpyARR (aregOf (b 1)) (dregOf (b 2)) (dregOf (b 3)))
  | 0x18 => some (.rra, .cpyRRA (dregOf (b 1)) (dregOf (b 2)) (aregOf (b 3)))
  | 0x19 => some (.rr, .swpRR (dregOf (b 1)) (dregOf (b 2)))
  | 0x1A => some (.aa, .swpAA (aregOf (b 1)) (aregOf (b 2)))
  | 0x1B => some (.w, .memrW (be16 (b 1) (b 2)))
  | 0x1C => some (.a, .memrA (aregOf (b 1)))
  | 0x1D => some (.w, .memwW (be16 (b 1) (b 2)))
  | 0x1E => some (.a, .memwA (aregOf (b 1)))
  | 0x1F => some (.aa, .memcAA (aregOf (b 1)) (aregOf (b 2)))
  | 0x20 => some (.atnn, .ldATNN (aregOf (b 1)) (be16 (b 2) (b 3)) (b 4) (b 5))
  | 0x21 => some (.atrr, .ldATRR (aregOf (b 1)) (be16 (b 2) (b 3)) (dregOf (b 4)) (dregOf (b 5)))
  | 0x22 => some (.tn, .lenTN (be16 (b 1) (b 2)) (b 3))
  | 0x23 => some (.tr, .lenTR (be16 (b 1) (b 2)) (dregOf (b 3)))
  | 0x24 => some (.rr, .cmpRR (dregOf (b 1)) (dregOf (b 2)))
  | 0x25 => some (.rn, .cmpRN (dregOf (b 1)) (b 2))
  | 0x26 => some (.ra, .cmpRA (dregOf (b 1)) (aregOf (b 2)))
  | 0x27 => some (.aa, .cmpAA (aregOf (b 1)) (aregOf (b 2)))
  | 0x28 => some (.w, .jmpW (be16 (b 1) (b 2)))
  | 0x29 => some (.a, .jmpA (aregOf (b 1)))
  | 0x2A => some (.w, .jeW (be16 (b 1) (b 2)))
  | 0x2B => some (.a, .jeA (aregOf (b 1)))
  | 0x2C => some (.w, .jneW (be16 (b 1) (b 2)))
  | 0x2D => some (.a, .jneA (aregOf (b 1)))
  | 0x2E => some (.w, .jlW (be16 (b 1) (b 2)))
  | 0x2F => some (.a, .jlA (aregOf (b 1)))
  | 0x30 => some (.w, .jgW (be16 (b 1) (b 2)))
  | 0x31 => some (.a, .jgA (aregOf (b 1)))
  | 0x32 => some (.w, .overW (be16 (b 1) (b 2)))
  | 0x33 => some (.a, .overA (aregOf (b 1)))
  | 0x34 => some (.w, .noverW (be16 (b 1) (b 2)))
  | 0x35 => some (.a, .noverA (aregOf (b 1)))
  | 0x36 => some (.w, .callW (be16 (b 1) (b 2)))
  | 0x37 => some (.a, .callA (aregOf (b 1)))
  | 0x38 => some (.bare, .ret)
  | 0x39 => some (.r, .pushR (dregOf (b 1)))
  | 0x3A => some (.n, .pushN (b 1))
  | 0x3B => some (.a, .pushA (aregOf (b 1)))
  | 0x3C => some (.r, .popR (dregOf (b 1)))
  | 0x3D => some (.a, .popA (aregOf (b 1)))
  | 0x3E => some (.rn, .argRN (dregOf (b 1)) (b 2))
  | 0x3F => some (.an, .argAN (aregOf (b 1)) (b 2))
  | 0x40 => some (.r, .prtR (dregOf (b 1)))
  | 0x41 => some (.n, .prtN (b 1))
  | 0x42 => some (.r, .prtcR (dregOf (b 1)))
  | 0x43 => some (.n, .prtcN (b 1))
  | 0x44 => some (.s, .prtsS (be16 (b 1) (b 2)))
  | 0x45 => some (.bare, .prtln)
  | 0x46 => some (.a, .prtdA (aregOf (b 1)))
  | 0x47 => some (.a, .mempA (aregOf (b 1)))
  | 0x48 => some (.bare, .debug)
  | 0x49 => some (.n, .fopenN (b 1))
  | 0x4A => some (.nw, .filerNW (b 1) (be16 (b 2) (b 3)))
  | 0x4B => some (.na, .filerNA (b 1) (aregOf (b 2)))
  | 0x4C => some (.nw, .filewNW (b 1) (be16 (b 2) (b 3)))
  | 0x4D => some (.na, .filewNA (b 1) (aregOf (b 2)))
  | 0x4E => some (.nr, .filewNR (b 1) (dregOf (b 2)))
  | 0x4F => some (.nn, .filewNN (b 1) (b 2))
  | 0x50 => some (.nr, .fskipNR (b 1) (dregOf (b 2)))
  | 0x51 => some (.n, .fseekN (b 1))
  | 0x52 => some (.nw, .fchkNW (b 1) (be16 (b 2) (b 3)))
  | 0x53 => some (.na, .fchkNA (b 1) (aregOf (b 2)))
  | 0x54 => some (.w, .ipollW (be16 (b 1) (b 2)))
  | 0x55 => some (.a, .ipollA (aregOf (b 1)))
  | 0x56 => some (.r, .rchrR (dregOf (b 1)))
  | 0x57 => some (.w, .rstrW (be16 (b 1) (b 2)))
  | 0x58 => some (.a, .rstrA (aregOf (b 1)))
  | 0x59 => some (.bare, .nop)
  | 0x5A => some (.bare, .halt)
  | 0x5B => some (.r, .randR (dregOf (b 1)))
  | 0x5C => some (.r, .seedR (dregOf (b 1)))
  | 0x5D => some (.bare, .time)
  | _ => none

/-- The format an opcode byte of the default opcode map has, none where the byte is unassigned (30_encoding.md R86, R87). -/
def formatOf (op : Byte) : Option Format :=
  (opcodeRow fun _ => op).map Prod.fst

/-- Decode one instruction from the front of `bs` with the default opcode map: the instruction and the bytes after it, or
why there is none. The checks stand in the order of 30_encoding.md R85: opcode, length, registers. -/
def decode (bs : List Byte) : Except DecodeError (Instr × List Byte) :=
  match bs with
  | [] => .error .truncated
  | _ :: rest =>
    match opcodeRow fun i => bs.getD i 0 with
    | none => .error .badOpcode
    | some (f, i) =>
      if bs.length < f.length then .error .truncated
      else if registersOk f.fields rest then .ok (i, bs.drop f.length)
      else .error .badRegister

/-- The bytes of an instruction with the default opcode map: its opcode byte, then its operands in order, 16-bit operands high byte first
(30_encoding.md R82, R86). -/
def encode : Instr → List Byte
  | .addRR x y => [0x01, x.code, y.code]
  | .addRN x y => [0x02, x.code, y]
  | .addRA x y => [0x03, x.code, y.code]
  | .subRR x y => [0x04, x.code, y.code]
  | .subRN x y => [0x05, x.code, y]
  | .subRA x y => [0x06, x.code, y.code]
  | .incR x => [0x07, x.code]
  | .incA x => [0x08, x.code]
  | .decR x => [0x09, x.code]
  | .decA x => [0x0A, x.code]
  | .andRR x y => [0x0B, x.code, y.code]
  | .andRN x y => [0x0C, x.code, y]
  | .orRR x y => [0x0D, x.code, y.code]
  | .orRN x y => [0x0E, x.code, y]
  | .xorRR x y => [0x0F, x.code, y.code]
  | .xorRN x y => [0x10, x.code, y]
  | .notR x => [0x11, x.code]
  | .cpyRR x y => [0x12, x.code, y.code]
  | .cpyRN x y => [0x13, x.code, y]
  | .cpyRA x y => [0x14, x.code, y.code]
  | .cpyAA x y => [0x15, x.code, y.code]
  | .cpyAW x y => [0x16, x.code, hiByte y, loByte y]
  | .cpyARR x y z => [0x17, x.code, y.code, z.code]
  | .cpyRRA x y z => [0x18, x.code, y.code, z.code]
  | .swpRR x y => [0x19, x.code, y.code]
  | .swpAA x y => [0x1A, x.code, y.code]
  | .memrW x => [0x1B, hiByte x, loByte x]
  | .memrA x => [0x1C, x.code]
  | .memwW x => [0x1D, hiByte x, loByte x]
  | .memwA x => [0x1E, x.code]
  | .memcAA x y => [0x1F, x.code, y.code]
  | .ldATNN x y z u => [0x20, x.code, hiByte y, loByte y, z, u]
  | .ldATRR x y z u => [0x21, x.code, hiByte y, loByte y, z.code, u.code]
  | .lenTN x y => [0x22, hiByte x, loByte x, y]
  | .lenTR x y => [0x23, hiByte x, loByte x, y.code]
  | .cmpRR x y => [0x24, x.code, y.code]
  | .cmpRN x y => [0x25, x.code, y]
  | .cmpRA x y => [0x26, x.code, y.code]
  | .cmpAA x y => [0x27, x.code, y.code]
  | .jmpW x => [0x28, hiByte x, loByte x]
  | .jmpA x => [0x29, x.code]
  | .jeW x => [0x2A, hiByte x, loByte x]
  | .jeA x => [0x2B, x.code]
  | .jneW x => [0x2C, hiByte x, loByte x]
  | .jneA x => [0x2D, x.code]
  | .jlW x => [0x2E, hiByte x, loByte x]
  | .jlA x => [0x2F, x.code]
  | .jgW x => [0x30, hiByte x, loByte x]
  | .jgA x => [0x31, x.code]
  | .overW x => [0x32, hiByte x, loByte x]
  | .overA x => [0x33, x.code]
  | .noverW x => [0x34, hiByte x, loByte x]
  | .noverA x => [0x35, x.code]
  | .callW x => [0x36, hiByte x, loByte x]
  | .callA x => [0x37, x.code]
  | .ret => [0x38]
  | .pushR x => [0x39, x.code]
  | .pushN x => [0x3A, x]
  | .pushA x => [0x3B, x.code]
  | .popR x => [0x3C, x.code]
  | .popA x => [0x3D, x.code]
  | .argRN x y => [0x3E, x.code, y]
  | .argAN x y => [0x3F, x.code, y]
  | .prtR x => [0x40, x.code]
  | .prtN x => [0x41, x]
  | .prtcR x => [0x42, x.code]
  | .prtcN x => [0x43, x]
  | .prtsS x => [0x44, hiByte x, loByte x]
  | .prtln => [0x45]
  | .prtdA x => [0x46, x.code]
  | .mempA x => [0x47, x.code]
  | .debug => [0x48]
  | .fopenN x => [0x49, x]
  | .filerNW x y => [0x4A, x, hiByte y, loByte y]
  | .filerNA x y => [0x4B, x, y.code]
  | .filewNW x y => [0x4C, x, hiByte y, loByte y]
  | .filewNA x y => [0x4D, x, y.code]
  | .filewNR x y => [0x4E, x, y.code]
  | .filewNN x y => [0x4F, x, y]
  | .fskipNR x y => [0x50, x, y.code]
  | .fseekN x => [0x51, x]
  | .fchkNW x y => [0x52, x, hiByte y, loByte y]
  | .fchkNA x y => [0x53, x, y.code]
  | .ipollW x => [0x54, hiByte x, loByte x]
  | .ipollA x => [0x55, x.code]
  | .rchrR x => [0x56, x.code]
  | .rstrW x => [0x57, hiByte x, loByte x]
  | .rstrA x => [0x58, x.code]
  | .nop => [0x59]
  | .halt => [0x5A]
  | .randR x => [0x5B, x.code]
  | .seedR x => [0x5C, x.code]
  | .time => [0x5D]

/-! ### the opcode map as a parameter -/

/-- The default `OPCODE_MAP`: every row of the table of 30_encoding.md R86 has the byte the table gives it. -/
def defaultOpcodeMap : OpcodeMap :=
  tableOpcodes.map fun c => (c, c)

/-- The parameters at the spec's defaults (00_scope.md R6). -/
def Params.standard : Params where
  opcodeMap := defaultOpcodeMap
  argBias := Config.argBias
  magic := Config.magic

/-- The table's byte of the row to which the map `m` gives the opcode byte `op`; 0x00, which the table leaves
unassigned, where `m` gives `op` to no row (00_scope.md R5, 30_encoding.md R87). -/
def tableOpcode (m : OpcodeMap) (op : Byte) : Byte :=
  (m.lookup op).getD 0

/-- The opcode byte that the map `m` gives the row whose byte in the table is `c`. -/
def mappedOpcode (m : OpcodeMap) (c : Byte) : Byte :=
  match m.find? fun p => p.2 == c with
  | some p => p.1
  | none => 0

/-- The format of an opcode byte under the map `m` (30_encoding.md R86). -/
def formatWith (m : OpcodeMap) (op : Byte) : Option Format :=
  formatOf (tableOpcode m op)

/-- Decode with the opcode map `m`: `require op in OPCODE_MAP else BadOpcode`, then as the table's row says
(30_encoding.md R85; 00_scope.md R5). -/
def decodeWith (m : OpcodeMap) (bs : List Byte) : Except DecodeError (Instr × List Byte) :=
  match bs with
  | [] => decode []
  | op :: rest => decode (tableOpcode m op :: rest)

/-- The bytes of an instruction with the opcode map `m` (30_encoding.md R82; 00_scope.md R5). -/
def encodeWith (m : OpcodeMap) (i : Instr) : List Byte :=
  match encode i with
  | [] => []
  | c :: operands => mappedOpcode m c :: operands

/-! ### the opcode table's numbering of an instruction's bits -/

/-- The bytes of the number `w` as the opcode table numbers an instruction's bits: byte k is bits 8k+7 to 8k. -/
def tableBytes (w : Nat) : List Byte :=
  (List.range 6).map fun k => BitVec.ofNat 8 (w >>> (8 * k))

/-- The instruction the decoder reads from an instruction whose low `nbits` bits are those of `w` and whose other bits
are 0, laid out in bytes, the first at the lowest offset. -/
def decodeTableWord (nbits w : Nat) : Option Instr :=
  match decode (tableBytes (w % 2 ^ nbits)) with
  | .ok (i, _) => some i
  | .error _ => none

end Sys2Proof
end

