-- ==== Sys2Proof/Machine/State.lean ====
section
/-! DEFINITION. The state of the machine as plain data: everything 10_state.md and 60_exceptions.md give the core, and
the host's side of its ports as data the step reads (log 3, 7 to 13). -/
namespace Sys2Proof.Machine

/-- The trap kinds (60_exceptions.md R300). -/
inductive TrapKind where
  | badOpcode | truncatedInstruction | badRegister | memOutOfRange | dataOutOfRange | stringOutOfRange
  | stackOverflow | stackUnderflow | badLdIndex | pcOutOfRange | ioBroken
deriving DecidableEq, Repr

/-- The two clean ends of a run (10_state.md R35). -/
inductive HaltReason where
  | haltInstr | endOfOps
deriving DecidableEq, Repr

/-- The run status (10_state.md R35). `waitStr` holds, beside the spec's PC0 and start address, the length of the
waiting RSTR, which the spec takes from its opcode (log 14). -/
inductive Status where
  | running
  | waitKey (pc0 : Word) (dst : DataReg)
  | waitStr (pc0 : Word) (start : Word) (len : Nat)
  | halted (r : HaltReason)
  | crashed (k : TrapKind)
  | cancelled
deriving DecidableEq, Repr

/-- The debug port's protocol state (10_state.md R36). -/
inductive Proto where
  | idle | awaitingKey | awaitingString | halted | crashed
deriving DecidableEq, Repr

/-- The two run loops (70_reset_and_hazards.md R356, R357). -/
inductive RunMode where
  | direct | piped
deriving DecidableEq, Repr

/-- One entry of the file-handle table (10_state.md R33). -/
structure FileHandle where
  opened : Bool
  cursor : BitVec 32
deriving DecidableEq, Repr

/-- One file of the host's input-file list (60_exceptions.md R316). -/
structure HostFile where
  bytes : List Byte
  openable : Bool
deriving DecidableEq, Repr

/-- A byte channel to the host: what it has taken, in order, and how many more bytes it takes before it reports
itself broken; none says that it never does (60_exceptions.md R317, log 10). -/
structure OutChannel where
  taken : List Byte
  left : Option Nat
deriving DecidableEq, Repr

/-- One answer of the wall clock (60_exceptions.md R313). -/
structure ClockReading where
  seconds : Byte
  minutes : Byte
  hours : Byte
deriving DecidableEq, Repr

/-- A device→host frame (60_exceptions.md R321); `dump` holds the 16 bytes of 10_state.md R39. -/
inductive DeviceFrame where
  | stdout (bytes : List Byte)
  | stderr (bytes : List Byte)
  | breakpoint (pc : Word)
  | dump (content : List Byte)
  | memory (bytes : List Byte)
  | awaitKey
  | awaitString
  | finished
  | crashed
deriving DecidableEq, Repr

/-- A host→device frame (60_exceptions.md R320). -/
inductive HostFrame where
  | step
  | stepIgnoring
  | setBreakpoint (pc : Word)
  | clearBreakpoint (pc : Word)
  | requestDump
  | key (b : Byte)
  | string (bytes : List Byte)
  | requestMemory (lo hi : Word)
deriving DecidableEq, Repr

/-- What the front of the host→device byte stream holds: a whole frame and the bytes after it, not yet a whole frame,
or a byte that begins no frame (60_exceptions.md R320). -/
inductive FrameParse where
  | frame (f : HostFrame) (rest : List Byte)
  | incomplete
  | unknown
deriving DecidableEq, Repr

/-- MEM as address and byte pairs: addresses strictly rising, no pair whose byte is 0, which every unlisted address
reads as (10_state.md R31). -/
abbrev Memory := List Host.Cell

/-- The host's side of the ports: what it has been sent and the answers it will give, in order (60_exceptions.md
R311, R312). Every field is the model's own (log 7 to 13). -/
structure HostSide where
  /-- The stdout channel of direct mode. -/
  stdout : OutChannel
  /-- The stderr channel of direct mode. -/
  stderr : OutChannel
  /-- The frames sent to the host in piped mode, in order. -/
  sent : List DeviceFrame
  /-- How many more frames the piped link takes before it disconnects; none says that it never does. -/
  sentLeft : Option Nat
  /-- The bytes the host has sent in piped mode and the device has not read. -/
  inbox : List Byte
  /-- Whether no byte will come after `inbox`. -/
  inboxClosed : Bool
  /-- Whether the piped session has ended. -/
  sessionClosed : Bool
  /-- Whether a cancellation has arrived that has not taken effect (60_exceptions.md R308). -/
  cancelPending : Bool
  /-- Direct mode: the answers to the requests for a key to come; none says that no byte is there. -/
  keys : List (Option Byte)
  /-- Direct mode: the answers to the requests for a line to come; none says that no finished line is there. -/
  lines : List (Option (List Byte))
  /-- Direct mode: the answers of `kb_ready` to come. -/
  ready : List Bool
  /-- The answers of `clock` to come. -/
  clocks : List ClockReading
  /-- The counter that free values are drawn with. -/
  draws : Nat
  /-- The input-file list. -/
  files : List HostFile
  /-- Whether the host allows the openings to come: false is a refusal (60_exceptions.md R312). -/
  openAnswers : List Bool
  /-- Host I/O errors to come: the most bytes each of the next reads, writes and skips moves. -/
  ioCaps : List Nat
deriving DecidableEq, Repr

/-- The state of the machine. -/
structure State where
  /-- The accumulator (10_state.md R20). -/
  acc : Byte
  d0 : Byte
  d1 : Byte
  d2 : Byte
  d3 : Byte
  a0 : Word
  a1 : Word
  /-- An offset into OPS, never a memory address (10_state.md R24). -/
  pc : Word
  /-- The address of the last pushed byte, 0xFFFF where the stack is empty (10_state.md R25). -/
  sp : Word
  fp : Word
  /-- The Overflow flag (10_state.md R27). -/
  ov : Bool
  mem : Memory
  /-- The instruction stream; its length is OPS_LEN (10_state.md R32). -/
  ops : List Byte
  /-- The strings blob; its length is STR_LEN. -/
  str : List Byte
  /-- The data blob; its length is DATA_LEN. -/
  data : List Byte
  /-- The file-handle table, by handle id (10_state.md R33). -/
  handles : Vector FileHandle 256
  /-- The PRNG state, of the open parameter's type, coded as a Nat (10_state.md R34, log 6). -/
  prng : Nat
  status : Status
  proto : Proto
  /-- The breakpoint set, without repeats (60_exceptions.md R322). -/
  breakpoints : List Word
  keybuf : List Byte
  strbuf : List (List Byte)
  /-- Which run loop drives the core (log 3). -/
  mode : RunMode
  /-- The parameters the device was built with; no step changes them (00_scope.md R5, R6, log 1). -/
  params : Params
  host : HostSide
deriving DecidableEq, Repr

/-- The outcome of a boot from a tape file: a state to run from, or an image error with its diagnostic and the exit code
(70_reset_and_hazards.md R352, R365). -/
inductive BootResult where
  | started (s : State)
  | failed (e : ImageError) (diagnostic : List Byte) (exit : Nat)
deriving DecidableEq, Repr

/-- How the machine itself stops. -/
inductive Fault where
  /-- Raised by `step` alone, never by an instruction: a step asked of a run that has ended (60_exceptions.md R327).
  Safe: the machine runs nothing more (log 2). -/
  | runEnded
deriving DecidableEq, Repr

/-- Why the model answers nothing. -/
inductive Refusal where
  /-- An instruction the model gives no meaning; no arm of this model raises it. Safe: nothing is said of it. -/
  | notModelled (mnemonic : String)
deriving DecidableEq, Repr

/-- The answer of a step. -/
abbrev StepResult := Host.Outcome State Fault Refusal

/-- The host's side before anything has happened: nothing sent, nothing to come, no file (log 7 to 13). -/
def HostSide.fresh : HostSide where
  stdout := ⟨[], none⟩
  stderr := ⟨[], none⟩
  sent := []
  sentLeft := none
  inbox := []
  inboxClosed := false
  sessionClosed := false
  cancelPending := false
  keys := []
  lines := []
  ready := []
  clocks := []
  draws := 0
  files := []
  openAnswers := []
  ioCaps := []

/-- The machine right after reset (70_reset_and_hazards.md R350), with no image loaded (log 4), in direct mode
(log 3), with the parameters at the spec's defaults (log 1). -/
def State.reset : State where
  acc := 0
  d0 := 0
  d1 := 0
  d2 := 0
  d3 := 0
  a0 := 0
  a1 := 0
  pc := 0
  sp := 0xFFFF
  fp := 0xFFFF
  ov := false
  mem := []
  ops := []
  str := []
  data := []
  handles := Vector.replicate 256 ⟨false, 0⟩
  prng := Config.prngInit
  status := .running
  proto := .idle
  breakpoints := []
  keybuf := []
  strbuf := []
  mode := .direct
  params := Params.standard
  host := .fresh

end Sys2Proof.Machine
end

