-- ==== Sys2Proof/Machine/Operands.lean ====
section
/-! DEFINITION. The operand forms: registers by name (00_scope.md R9), the next-instruction address, and the run of
bytes a region or MEM operand stands for. -/
namespace Sys2Proof.Machine

/-- `DR[c]` (00_scope.md R9). -/
def State.dr (s : State) : DataReg → Byte
  | .acc => s.acc
  | .d0 => s.d0
  | .d1 => s.d1
  | .d2 => s.d2
  | .d3 => s.d3

/-- `DR[c] <- v` (00_scope.md R9). -/
def State.setDr (s : State) (r : DataReg) (v : Byte) : State :=
  match r with
  | .acc => { s with acc := v }
  | .d0 => { s with d0 := v }
  | .d1 => { s with d1 := v }
  | .d2 => { s with d2 := v }
  | .d3 => { s with d3 := v }

/-- `AR[c]` (00_scope.md R9). -/
def State.ar (s : State) : AddrReg → Word
  | .a0 => s.a0
  | .a1 => s.a1

/-- `AR[c] <- v` (00_scope.md R9). -/
def State.setAr (s : State) (r : AddrReg) (v : Word) : State :=
  match r with
  | .a0 => { s with a0 := v }
  | .a1 => { s with a1 := v }

/-- `PCn`, the address after an instruction of format `f` at PC (00_scope.md R11). -/
def State.pcn (s : State) (f : Format) : Word :=
  s.pc + BitVec.ofNat 16 f.length

/-- `PC <- PC0 + len` (10_state.md R24). -/
def State.advance (s : State) (f : Format) : State :=
  { s with pc := s.pcn f }

/-- `PC <- target` where the condition holds, else `PCn` (43_compare_control.md R188). -/
def State.branch (s : State) (f : Format) (taken : Bool) (target : Word) : State :=
  { s with pc := if taken then target else s.pcn f }

/-- `RangeOK(a, n, size)` in ℤ (20_memory.md R53). -/
def rangeOk (a n size : Nat) : Bool :=
  decide (a < size) && decide (a + n ≤ size)

/-- The byte at offset `a` of a region; used only inside the region. -/
def byteAt (region : List Byte) (a : Nat) : Byte :=
  region.getD a 0

/-- The `n` bytes of a region from offset `a` on; used only where they lie inside it (20_memory.md R54, R55). -/
def bytesAt (region : List Byte) (a n : Nat) : List Byte :=
  (region.drop a).take n

/-- The address an `ARG` reads, `FP + n + ARG_BIAS` in ℤ (44_stack.md R218). -/
def State.argAddr (s : State) (n : Num) : Nat :=
  s.fp.toNat + n.toNat + s.params.argBias

/-- The dump of 10_state.md R39: 16 bytes, 16-bit fields high byte first, OV as 0x00 or 0x01. -/
def State.dump (s : State) : List Byte :=
  [hiByte s.pc, loByte s.pc, hiByte s.a0, loByte s.a0, hiByte s.a1, loByte s.a1, hiByte s.sp, loByte s.sp,
    hiByte s.fp, loByte s.fp, s.acc, s.d0, s.d1, s.d2, s.d3, if s.ov then 1 else 0]

end Sys2Proof.Machine
end

