-- ==== Sys2Proof/Machine/Flags.lean ====
section
/-! DEFINITION. The ALU's result writes with the Overflow flag (41_alu.md R110, R118, R120) and the comparison
function (43_compare_control.md R180). -/
namespace Sys2Proof.Machine

/-- The Overflow flag of an 8-bit arithmetic result in ℤ (41_alu.md R110). -/
def overflow8 (r : Int) : Bool := decide (r < 0) || decide (r > 255)

/-- The Overflow flag of a 16-bit arithmetic result in ℤ (41_alu.md R118, R120). -/
def overflow16 (r : Int) : Bool := decide (r < 0) || decide (r > 65535)

/-- `AluWrite8(r)`: ACC and OV in one compound write (41_alu.md R110). -/
def State.aluWrite8 (s : State) (r : Int) : State :=
  { s with acc := BitVec.ofInt 8 r, ov := overflow8 r }

/-- The 16-bit result write of INC a and DEC a: the register and OV, not ACC (41_alu.md R118, R120). -/
def State.aluWrite16 (s : State) (x : AddrReg) (r : Int) : State :=
  { s.setAr x (BitVec.ofInt 16 r) with ov := overflow16 r }

/-- `Cmp(l, r)`: 0 equal, 1 below, 2 above, unsigned (43_compare_control.md R180). -/
def cmpResult (l r : Nat) : Byte :=
  if l = r then 0 else if l < r then 1 else 2

end Sys2Proof.Machine
end

