-- ==== Sys2Proof/Machine/Ports.lean ====
section
/-! DEFINITION. The host I/O surface (60_exceptions.md R311 to R317): the output channels, the frames of piped mode, the
keyboard, the clock and the file device, each answer taken from the host's side of the state. -/
namespace Sys2Proof.Machine

/-- The numeric code of a trap kind (60_exceptions.md R300). -/
def TrapKind.code : TrapKind → Nat
  | .badOpcode => 1
  | .truncatedInstruction => 2
  | .badRegister => 3
  | .memOutOfRange => 4
  | .dataOutOfRange => 5
  | .stringOutOfRange => 6
  | .stackOverflow => 7
  | .stackUnderflow => 8
  | .badLdIndex => 9
  | .pcOutOfRange => 10
  | .ioBroken => 11

/-- Send bytes in order until the host reports the channel broken: the channel after, and whether all were taken
(45_print.md R230). -/
def OutChannel.send (c : OutChannel) (bs : List Byte) : OutChannel × Bool :=
  match c.left with
  | none => (⟨c.taken ++ bs, none⟩, true)
  | some n =>
    if bs.length ≤ n then (⟨c.taken ++ bs, some (n - bs.length)⟩, true)
    else (⟨c.taken ++ bs.take n, some 0⟩, false)

/-- Send one frame to the host in piped mode. A link that cannot be written is a protocol disconnect: the frame is
lost and the session is closed, which cancels the run at the next boundary (60_exceptions.md R301, R308). -/
def State.emit (s : State) (f : DeviceFrame) : State :=
  match s.host.sentLeft with
  | none => { s with host := { s.host with sent := s.host.sent ++ [f] } }
  | some (n + 1) => { s with host := { s.host with sent := s.host.sent ++ [f], sentLeft := some n } }
  | some 0 => { s with host := { s.host with sessionClosed := true } }

/-- Send frames in order. -/
def State.emitAll (s : State) (fs : List DeviceFrame) : State :=
  fs.foldl State.emit s

/-- Cut bytes into runs of at most 255, at most `fuel` of them (60_exceptions.md R321, R323). -/
def chunks : Nat → List Byte → List (List Byte)
  | 0, _ => []
  | _ + 1, [] => []
  | fuel + 1, b :: bs =>
    (b :: bs).take Config.frameMax :: chunks fuel ((b :: bs).drop Config.frameMax)

/-- Bytes cut into the payloads of successive frames, each 1 to 255 bytes, in order. -/
def payloads (bs : List Byte) : List (List Byte) :=
  chunks bs.length bs

/-- The crash report of direct mode: the tag, a line feed, the rendered dump (60_exceptions.md R305). -/
def crashReport (k : TrapKind) (dump : List Byte) : List Byte :=
  Config.crashTag k.code ++ [0x0A] ++ Config.dumpText dump

/-- `KeyReady()` (47_input_misc.md R270): the answer, and the host's side after the request. In direct mode an answer
that the state does not list is a free value (log 7). -/
def State.keyReady (s : State) : Bool × State :=
  match s.mode with
  | .piped => (!s.keybuf.isEmpty, s)
  | .direct =>
    match s.host.ready with
    | b :: bs => (b, { s with host := { s.host with ready := bs } })
    | [] => (Config.kbReady s.host.draws, { s with host := { s.host with draws := s.host.draws + 1 } })

/-- `TakeKey()` (47_input_misc.md R270): a byte or none, and the state after the request. -/
def State.takeKey (s : State) : Option Byte × State :=
  match s.mode with
  | .piped =>
    match s.keybuf with
    | b :: bs => (some b, { s with keybuf := bs })
    | [] => (none, s)
  | .direct =>
    match s.host.keys with
    | k :: ks => (k, { s with host := { s.host with keys := ks } })
    | [] => (none, s)

/-- `TakeLine()` (47_input_misc.md R270): a line or none, and the state after the request. -/
def State.takeLine (s : State) : Option (List Byte) × State :=
  match s.mode with
  | .piped =>
    match s.strbuf with
    | l :: ls => (some l, { s with strbuf := ls })
    | [] => (none, s)
  | .direct =>
    match s.host.lines with
    | l :: ls => (l, { s with host := { s.host with lines := ls } })
    | [] => (none, s)

/-- `Host.clock()` (60_exceptions.md R313): a reading the state lists, or free values (log 7). -/
def State.readClock (s : State) : ClockReading × State :=
  match s.host.clocks with
  | c :: cs => (c, { s with host := { s.host with clocks := cs } })
  | [] =>
    (⟨Config.clockSeconds s.host.draws, Config.clockMinutes s.host.draws, Config.clockHours s.host.draws⟩,
      { s with host := { s.host with draws := s.host.draws + 1 } })

/-- `F_f`, empty where the host has no file f (60_exceptions.md R316). -/
def HostSide.fileBytes (h : HostSide) (f : Byte) : List Byte :=
  match h.files[f.toNat]? with
  | some x => x.bytes
  | none => []

/-- `file_open(f)`: f is below FILE_COUNT, the host can open the file, and it does not refuse this request
(60_exceptions.md R312, R316). -/
def HostSide.fileOpen (h : HostSide) (f : Byte) : Bool × HostSide :=
  let can := match h.files[f.toNat]? with
    | some x => x.openable
    | none => false
  match h.openAnswers with
  | a :: r => (a && can, { h with openAnswers := r })
  | [] => (can, h)

/-- The bytes a request for `k` bytes moves: all of them, or fewer on a host I/O error (60_exceptions.md R312). -/
def HostSide.limit (h : HostSide) (k : Nat) : Nat × HostSide :=
  match h.ioCaps with
  | c :: r => (min k c, { h with ioCaps := r })
  | [] => (k, h)

/-- `file_size(f)` in 32 bits (60_exceptions.md R316, 92_eei_decisions.md D42). -/
def HostSide.fileSize (h : HostSide) (f : Byte) : BitVec 32 :=
  BitVec.ofNat 32 (h.fileBytes f).length

/-- `file_read(f, p, n)` (60_exceptions.md R316). -/
def HostSide.fileRead (h : HostSide) (f : Byte) (p n : Nat) : List Byte × HostSide :=
  let bs := ((h.fileBytes f).drop p).take n
  let (k, h) := h.limit bs.length
  (bs.take k, h)

/-- `file_skip(f, p, n)` (60_exceptions.md R316). -/
def HostSide.fileSkip (h : HostSide) (f : Byte) (p n : Nat) : Nat × HostSide :=
  h.limit (min n ((h.fileBytes f).length - p))

/-- A file with `bs` written at `p`, the gap before `p` filled with 0x00 (60_exceptions.md R316). -/
def overlay (file : List Byte) (p : Nat) (bs : List Byte) : List Byte :=
  let file := file ++ List.replicate (p - file.length) 0
  file.take p ++ bs ++ file.drop (p + bs.length)

/-- `file_write(f, p, bs)`: how many bytes were written, and the host's side with them in the file. No byte reaches
position 2^32 - 1 (60_exceptions.md R316, log 9). -/
def HostSide.fileWrite (h : HostSide) (f : Byte) (p : Nat) (bs : List Byte) : Nat × HostSide :=
  match h.files[f.toNat]? with
  | none => (0, h)
  | some x =>
    let (k, h) := h.limit (min bs.length (Config.fileTop - p))
    (k, { h with files := h.files.set f.toNat { x with bytes := overlay x.bytes p (bs.take k) } })

/-- The handle-table entry of a handle id (10_state.md R33). -/
def State.handle (s : State) (f : Byte) : FileHandle :=
  s.handles[f.toNat]'f.isLt

/-- Replace the handle-table entry of a handle id. -/
def State.setHandle (s : State) (f : Byte) (x : FileHandle) : State :=
  { s with handles := s.handles.set f.toNat x f.isLt }

/-- `cursor[f] <- cursor[f] + k`, in 32 bits (46_files.md R253). -/
def State.bumpCursor (s : State) (f : Byte) (k : Nat) : State :=
  s.setHandle f { s.handle f with cursor := (s.handle f).cursor + BitVec.ofNat 32 k }

/-- `Avail(f)`: whether the handle is available, opening it on demand (46_files.md R251). -/
def State.avail (s : State) (f : Byte) : Bool × State :=
  if (s.handle f).opened then (true, s)
  else
    let (ok, h) := s.host.fileOpen f
    let s := { s with host := h }
    if ok then (true, s.setHandle f { s.handle f with opened := true }) else (false, s)

end Sys2Proof.Machine
end

