-- ==== Sys2Proof/Machine/Ops.lean ====
section
/-! DEFINITION. The shared operations: taking a trap, MEM, the stack controller, output, waits, and the packed-data
index functions. There is no return from a trap: nothing runs after one (60_exceptions.md R306). -/
namespace Sys2Proof.Machine

/-! ## Traps and the end of a run -/

/-- Trap entry, the machine's one exception: status becomes Crashed(K); PC and every other register, MEM and the
handle table stay as they are; direct mode writes the crash report to stderr, as far as stderr takes it; piped mode
enters Crashed and emits `c` (60_exceptions.md R302 to R305). -/
def State.takeTrap (s : State) (k : TrapKind) : State :=
  match s.mode with
  | .direct =>
    { s with
      status := .crashed k
      host := { s.host with stderr := (s.host.stderr.send (crashReport k s.dump)).1 } }
  | .piped => ({ s with status := .crashed k, proto := .crashed } : State).emit .crashed

/-- `raise Trap(K)` in an instruction that began in `s` (00_scope.md R9). -/
def raise (k : TrapKind) (s : State) : StepResult :=
  .next (s.takeTrap k)

/-- `require c else K`, then the rest of the instruction (00_scope.md R9). -/
def require (c : Bool) (k : TrapKind) (s : State) (rest : StepResult) : StepResult :=
  if c then rest else raise k s

/-- A clean end of the run; in piped mode the port enters Halted and emits `f` (47_input_misc.md R277,
60_exceptions.md R319). -/
def State.halt (s : State) (r : HaltReason) : State :=
  match s.mode with
  | .direct => { s with status := .halted r }
  | .piped => ({ s with status := .halted r, proto := .halted } : State).emit .finished

/-- Whether the run has ended (60_exceptions.md R327). -/
def Status.ended : Status → Bool
  | .halted _ | .crashed _ | .cancelled => true
  | .running | .waitKey _ _ | .waitStr _ _ _ => false

/-- Cancellation: the run ends with the state as it is (60_exceptions.md R308). -/
def State.cancel (s : State) : State :=
  { s with status := .cancelled, host := { s.host with cancelPending := false } }

/-- The piped session ends: by a protocol error or a disconnect; a run that had not ended is cancelled
(60_exceptions.md R320, 70_reset_and_hazards.md R357). -/
def State.closeSession (s : State) : State :=
  { s with
    status := if s.status.ended then s.status else .cancelled
    host := { s.host with sessionClosed := true } }

/-! ## MEM -/

/-- The byte of MEM at an address, 0 where no pair lists it (10_state.md R31). -/
def Memory.read (m : Memory) (a : Nat) : Byte :=
  match m with
  | [] => 0
  | (k, b) :: r => if k = a then b else Memory.read r a

/-- Put a pair in front of the first pair with a larger address. -/
def Memory.insert (m : Memory) (a : Nat) (b : Byte) : Memory :=
  match m with
  | [] => [(a, b)]
  | (k, c) :: r => if a < k then (a, b) :: (k, c) :: r else (k, c) :: Memory.insert r a b

/-- Write one byte of MEM, keeping the canonical form; an address MEM does not have changes nothing. -/
def Memory.write (m : Memory) (a : Nat) (b : Byte) : Memory :=
  if a < Config.memSize then
    let others : Memory := List.filter (fun c => c.1 != a) m
    if b = 0 then others else Memory.insert others a b
  else m

/-- The canonical form of MEM: addresses strictly rising, below MEM_SIZE, no byte that is 0. -/
def Memory.wf (m : Memory) : Bool :=
  decide ((m.map Prod.fst).Pairwise (· < ·)) && m.all fun c => decide (c.1 < Config.memSize) && c.2 != 0

/-- The bytes of `MemRead(a, n)` (20_memory.md R52). -/
def Memory.readBytes (m : Memory) (a n : Nat) : List Byte :=
  (List.range n).map fun i => Memory.read m (a + i)

/-- The writes of `MemWrite(a, n, bs)`, in ascending order (20_memory.md R52). -/
def Memory.writeBytes (m : Memory) (a : Nat) (bs : List Byte) : Memory :=
  match bs with
  | [] => m
  | b :: bs => Memory.writeBytes (Memory.write m a b) (a + 1) bs

/-! ## The stack controller -/

/-- A push of `n` bytes has room: `SP >= n` (44_stack.md R210, R212). -/
def State.canPush (s : State) (n : Nat) : Bool :=
  decide (n ≤ s.sp.toNat)

/-- A pop of `n` bytes has bytes: `SP <= 0xFFFF - n` (44_stack.md R211, R212). -/
def State.canPop (s : State) (n : Nat) : Bool :=
  decide (s.sp.toNat + n ≤ 65535)

/-- `Push8(v)` after its check: `SP <- SP - 1; MEM[SP] <- v` (44_stack.md R210). -/
def State.push8 (s : State) (v : Byte) : State :=
  { s with sp := s.sp - 1, mem := s.mem.write (s.sp - 1).toNat v }

/-- `Push16(v)` after its check: the high byte, then the low byte (44_stack.md R212). -/
def State.push16 (s : State) (v : Word) : State :=
  (s.push8 (hiByte v)).push8 (loByte v)

/-- The byte `Pop8()` answers (44_stack.md R211). -/
def State.top8 (s : State) : Byte :=
  s.mem.read s.sp.toNat

/-- The value `Pop16()` answers: low byte at SP, high byte at SP+1 (44_stack.md R212). -/
def State.top16 (s : State) : Word :=
  be16 (s.mem.read (s.sp + 1).toNat) (s.mem.read s.sp.toNat)

/-- The stack pointer's move of a pop of `n` bytes. -/
def State.dropBytes (s : State) (n : Nat) : State :=
  { s with sp := s.sp + BitVec.ofNat 16 n }

/-! ## Output -/

/-- `Dec(v)`: the decimal digits of a byte as ASCII, no leading zeros (45_print.md R231). -/
def decimal (v : Byte) : List Byte :=
  let d (n : Nat) : Byte := BitVec.ofNat 8 (0x30 + n)
  let n := v.toNat
  if n < 10 then [d n]
  else if n < 100 then [d (n / 10), d (n % 10)]
  else [d (n / 100), d (n / 10 % 10), d (n % 10)]

/-- An instruction of format `f` that sends bytes to stdout: in direct mode to the channel, raising IoBroken with the
bytes already sent kept where it breaks; in piped mode in `o` frames (45_print.md R230, 60_exceptions.md R321). -/
def printBytes (bs : List Byte) (f : Format) (s : State) : StepResult :=
  match s.mode with
  | .direct =>
    let (c, ok) := s.host.stdout.send bs
    let s := { s with host := { s.host with stdout := c } }
    if ok then .next (s.advance f) else raise .ioBroken s
  | .piped => .next ((s.emitAll ((payloads bs).map .stdout)).advance f)

/-- `EmitDump` of a snapshot: in direct mode its rendering to stderr, in piped mode a `d` frame (45_print.md R240). -/
def printDump (f : Format) (s : State) : StepResult :=
  let content := (s.advance f).dump
  match s.mode with
  | .direct =>
    let (c, ok) := s.host.stderr.send (Config.dumpText content)
    let s := { s with host := { s.host with stderr := c } }
    if ok then .next (s.advance f) else raise .ioBroken s
  | .piped => .next ((s.emit (.dump content)).advance f)

/-! ## Waits -/

/-- RCHR finds no key: PC stays at PC0; piped mode enters AwaitingKey and emits `k` (47_input_misc.md R273). -/
def State.waitForKey (s : State) (x : DataReg) : State :=
  let t := { s with status := .waitKey s.pc x }
  match s.mode with
  | .direct => t
  | .piped => ({ t with proto := .awaitingKey } : State).emit .awaitKey

/-- RSTR finds no line: PC stays at PC0; piped mode enters AwaitingString and emits `t` (47_input_misc.md R274). -/
def State.waitForLine (s : State) (a : Word) (f : Format) : State :=
  let t := { s with status := .waitStr s.pc a f.length }
  match s.mode with
  | .direct => t
  | .piped => ({ t with proto := .awaitingString } : State).emit .awaitString

/-- `Store(bs)` of RSTR: at most 255 bytes to MEM from `a` on, ACC their count (47_input_misc.md R274). -/
def State.storeLine (s : State) (a : Word) (line : List Byte) : State :=
  let bs := line.take Config.rstrMax
  { s with mem := s.mem.writeBytes a.toNat bs, acc := BitVec.ofNat 8 bs.length }

/-- The wait is over: status Running, and in piped mode the port is Idle again (47_input_misc.md R273, R274). -/
def State.resume (s : State) (pc : Word) : State :=
  { s with
    pc := pc
    status := .running
    proto := match s.mode with
      | .direct => s.proto
      | .piped => .idle }

/-- Delivery of a key to the RCHR waiting at `pc0` (47_input_misc.md R273). -/
def State.deliverKey (s : State) (pc0 : Word) (x : DataReg) (b : Byte) : State :=
  (s.setDr x b).resume (pc0 + 2)

/-- Delivery of a line to the RSTR of `len` bytes waiting at `pc0` (47_input_misc.md R274, R275). -/
def State.deliverLine (s : State) (pc0 a : Word) (len : Nat) (line : List Byte) : State :=
  (s.storeLine a line).resume (pc0 + BitVec.ofNat 16 len)

/-! ## Packed data -/

/-- `LdOffset(id, o, i)` over DATA (42_data_movement.md R154). -/
def ldOffset (data : List Byte) (id o i : Nat) : Except TrapKind Nat :=
  let n := (byteAt data id).toNat
  if ¬ id < data.length then .error .dataOutOfRange
  else if o = 0 then
    if i = 0 then .ok id
    else if ¬ i ≤ n then .error .badLdIndex
    else if ¬ id + i < data.length then .error .dataOutOfRange
    else .ok (id + i)
  else if ¬ o ≤ n then .error .badLdIndex
  else if ¬ id + n < data.length then .error .dataOutOfRange
  else
    let len := (byteAt data (id + o)).toNat
    let start := id + 1 + n + ((List.range (o - 1)).map fun m => (byteAt data (id + 1 + m)).toNat).sum
    if ¬ i < len then .error .badLdIndex
    else if ¬ start + i < data.length then .error .dataOutOfRange
    else .ok (start + i)

/-- `LenValue(id, o)` over DATA (42_data_movement.md R157). -/
def lenValue (data : List Byte) (id o : Nat) : Except TrapKind Byte :=
  let n := byteAt data id
  if ¬ id < data.length then .error .dataOutOfRange
  else if o = 0 then .ok n
  else if ¬ o ≤ n.toNat then .error .badLdIndex
  else if ¬ id + o < data.length then .error .dataOutOfRange
  else .ok (byteAt data (id + o))

/-- The end of LD: the offset to an address register, or the trap (42_data_movement.md R155). -/
def loadOffset (x : AddrReg) (f : Format) (r : Except TrapKind Nat) (s : State) : StepResult :=
  match r with
  | .ok a => .next ((s.advance f).setAr x (BitVec.ofNat 16 a))
  | .error k => raise k s

/-- The end of LEN: the length to ACC, or the trap (42_data_movement.md R158). -/
def loadLength (f : Format) (r : Except TrapKind Byte) (s : State) : StepResult :=
  match r with
  | .ok v => .next ((s.advance f).setDr .acc v)
  | .error k => raise k s

/-! ## Files -/

/-- FILER into the buffer at `a` (46_files.md R253). -/
def fileReadTo (f : Byte) (a : Nat) (fmt : Format) (s : State) : StepResult :=
  require (rangeOk a s.acc.toNat Config.memSize) .memOutOfRange s <|
    match s.avail f with
    | (false, t) => .next { t.advance fmt with acc := 0 }
    | (true, t) =>
      let (bs, h) := t.host.fileRead f (t.handle f).cursor.toNat s.acc.toNat
      let t := { t.advance fmt with
        host := h, mem := t.mem.writeBytes a bs, acc := BitVec.ofNat 8 bs.length }
      .next (t.bumpCursor f bs.length)

/-- The host request of every FILEW: the bytes at the cursor, ACC the count written (46_files.md R255, R257). -/
def fileWriteBytes (f : Byte) (bs : List Byte) (fmt : Format) (s : State) : StepResult :=
  match s.avail f with
  | (false, t) => .next { t.advance fmt with acc := 0 }
  | (true, t) =>
    let (k, h) := t.host.fileWrite f (t.handle f).cursor.toNat bs
    let t := { t.advance fmt with host := h, acc := BitVec.ofNat 8 k }
    .next (t.bumpCursor f k)

/-- FILEW of the ACC bytes of MEM from `a` on (46_files.md R255). -/
def fileWriteFrom (f : Byte) (a : Nat) (fmt : Format) (s : State) : StepResult :=
  require (rangeOk a s.acc.toNat Config.memSize) .memOutOfRange s <|
    fileWriteBytes f (s.mem.readBytes a s.acc.toNat) fmt s

/-- FCHK: branch where the handle is available (46_files.md R261). -/
def fileBranch (f : Byte) (target : Word) (fmt : Format) (s : State) : StepResult :=
  match s.avail f with
  | (ok, t) => .next (t.branch fmt ok target)

/-- `D3 * 2^24 + D2 * 2^16 + D1 * 2^8 + D0` (46_files.md R260). -/
def State.seekPosition (s : State) : BitVec 32 :=
  BitVec.ofNat 32 (s.d3.toNat * 16777216 + s.d2.toNat * 65536 + s.d1.toNat * 256 + s.d0.toNat)

/-- `D3 <- v[31:24]; D2 <- v[23:16]; D1 <- v[15:8]; D0 <- v[7:0]` (46_files.md R252). -/
def State.setSize (s : State) (v : BitVec 32) : State :=
  { s with d3 := v.extractLsb' 24 8, d2 := v.extractLsb' 16 8, d1 := v.extractLsb' 8 8, d0 := v.extractLsb' 0 8 }

/-! ## Calls -/

/-- CALL after its target is read: push PCn, FP from SP, PC to the target (43_compare_control.md R201). -/
def callTo (target : Word) (f : Format) (s : State) : StepResult :=
  require (s.canPush 2) .stackOverflow s <|
    let t := s.push16 (s.pcn f)
    .next { t with fp := t.sp, pc := target }

end Sys2Proof.Machine
end

