-- ==== Sys2Proof/Machine/Alu.lean ====
section
/-! DEFINITION. The ALU's instructions (41_alu.md). -/
namespace Sys2Proof.Machine

/-- ADD r r (41_alu.md R111). -/
def execAddRR (x y : DataReg) (s : State) : StepResult :=
  .next ((s.advance .rr).aluWrite8 ((s.dr x).toNat + (s.dr y).toNat))

/-- ADD r n (41_alu.md R112). -/
def execAddRN (x : DataReg) (y : Num) (s : State) : StepResult :=
  .next ((s.advance .rn).aluWrite8 ((s.dr x).toNat + y.toNat))

/-- ADD r a (41_alu.md R113). -/
def execAddRA (x : DataReg) (y : AddrReg) (s : State) : StepResult :=
  require (rangeOk (s.ar y).toNat 1 s.data.length) .dataOutOfRange s <|
    .next ((s.advance .ra).aluWrite8 ((s.dr x).toNat + (byteAt s.data (s.ar y).toNat).toNat))

/-- SUB r r (41_alu.md R114). -/
def execSubRR (x y : DataReg) (s : State) : StepResult :=
  .next ((s.advance .rr).aluWrite8 (((s.dr x).toNat : Int) - (s.dr y).toNat))

/-- SUB r n (41_alu.md R115). -/
def execSubRN (x : DataReg) (y : Num) (s : State) : StepResult :=
  .next ((s.advance .rn).aluWrite8 (((s.dr x).toNat : Int) - y.toNat))

/-- SUB r a (41_alu.md R116). -/
def execSubRA (x : DataReg) (y : AddrReg) (s : State) : StepResult :=
  require (rangeOk (s.ar y).toNat 1 s.data.length) .dataOutOfRange s <|
    .next ((s.advance .ra).aluWrite8 (((s.dr x).toNat : Int) - (byteAt s.data (s.ar y).toNat).toNat))

/-- INC r: the result to ACC (41_alu.md R117). -/
def execIncR (x : DataReg) (s : State) : StepResult :=
  .next ((s.advance .r).aluWrite8 ((s.dr x).toNat + 1))

/-- INC a (41_alu.md R118). -/
def execIncA (x : AddrReg) (s : State) : StepResult :=
  .next ((s.advance .a).aluWrite16 x ((s.ar x).toNat + 1))

/-- DEC r: the result to ACC (41_alu.md R119). -/
def execDecR (x : DataReg) (s : State) : StepResult :=
  .next ((s.advance .r).aluWrite8 (((s.dr x).toNat : Int) - 1))

/-- DEC a (41_alu.md R120). -/
def execDecA (x : AddrReg) (s : State) : StepResult :=
  .next ((s.advance .a).aluWrite16 x (((s.ar x).toNat : Int) - 1))

/-- AND r r (41_alu.md R121). -/
def execAndRR (x y : DataReg) (s : State) : StepResult :=
  .next ((s.advance .rr).setDr .acc (s.dr x &&& s.dr y))

/-- AND r n (41_alu.md R122). -/
def execAndRN (x : DataReg) (y : Num) (s : State) : StepResult :=
  .next ((s.advance .rn).setDr .acc (s.dr x &&& y))

/-- OR r r (41_alu.md R123). -/
def execOrRR (x y : DataReg) (s : State) : StepResult :=
  .next ((s.advance .rr).setDr .acc (s.dr x ||| s.dr y))

/-- OR r n (41_alu.md R124). -/
def execOrRN (x : DataReg) (y : Num) (s : State) : StepResult :=
  .next ((s.advance .rn).setDr .acc (s.dr x ||| y))

/-- XOR r r (41_alu.md R125). -/
def execXorRR (x y : DataReg) (s : State) : StepResult :=
  .next ((s.advance .rr).setDr .acc (s.dr x ^^^ s.dr y))

/-- XOR r n (41_alu.md R126). -/
def execXorRN (x : DataReg) (y : Num) (s : State) : StepResult :=
  .next ((s.advance .rn).setDr .acc (s.dr x ^^^ y))

/-- NOT r (41_alu.md R127). -/
def execNotR (x : DataReg) (s : State) : StepResult :=
  .next ((s.advance .r).setDr .acc (~~~(s.dr x)))

end Sys2Proof.Machine
end

