-- ==== Sys2Proof/Machine/Control.lean ====
section
/-! DEFINITION. Compare and control flow: CMP, the jumps, CALL, RET (43_compare_control.md). -/
namespace Sys2Proof.Machine

/-- CMP r r (43_compare_control.md R181). -/
def execCmpRR (x y : DataReg) (s : State) : StepResult :=
  .next ((s.advance .rr).setDr .acc (cmpResult (s.dr x).toNat (s.dr y).toNat))

/-- CMP r n (43_compare_control.md R182). -/
def execCmpRN (x : DataReg) (y : Num) (s : State) : StepResult :=
  .next ((s.advance .rn).setDr .acc (cmpResult (s.dr x).toNat y.toNat))

/-- CMP r a: against a byte of DATA (43_compare_control.md R183). -/
def execCmpRA (x : DataReg) (y : AddrReg) (s : State) : StepResult :=
  require (rangeOk (s.ar y).toNat 1 s.data.length) .dataOutOfRange s <|
    .next ((s.advance .ra).setDr .acc (cmpResult (s.dr x).toNat (byteAt s.data (s.ar y).toNat).toNat))

/-- CMP a a, also spelled CMPAR: the register values themselves (43_compare_control.md R184). -/
def execCmpAA (x y : AddrReg) (s : State) : StepResult :=
  .next ((s.advance .aa).setDr .acc (cmpResult (s.ar x).toNat (s.ar y).toNat))

/-- JMP w (43_compare_control.md R186). -/
def execJmpW (x : Addr) (s : State) : StepResult :=
  .next (s.branch .w true x)

/-- JMP a (43_compare_control.md R187). -/
def execJmpA (x : AddrReg) (s : State) : StepResult :=
  .next (s.branch .a true (s.ar x))

/-- JE w (43_compare_control.md R189). -/
def execJeW (x : Addr) (s : State) : StepResult :=
  .next (s.branch .w (decide (s.acc = 0)) x)

/-- JE a (43_compare_control.md R190). -/
def execJeA (x : AddrReg) (s : State) : StepResult :=
  .next (s.branch .a (decide (s.acc = 0)) (s.ar x))

/-- JNE w (43_compare_control.md R191). -/
def execJneW (x : Addr) (s : State) : StepResult :=
  .next (s.branch .w (decide (s.acc ≠ 0)) x)

/-- JNE a (43_compare_control.md R192). -/
def execJneA (x : AddrReg) (s : State) : StepResult :=
  .next (s.branch .a (decide (s.acc ≠ 0)) (s.ar x))

/-- JL w (43_compare_control.md R193). -/
def execJlW (x : Addr) (s : State) : StepResult :=
  .next (s.branch .w (decide (s.acc = 1)) x)

/-- JL a (43_compare_control.md R194). -/
def execJlA (x : AddrReg) (s : State) : StepResult :=
  .next (s.branch .a (decide (s.acc = 1)) (s.ar x))

/-- JG w (43_compare_control.md R195). -/
def execJgW (x : Addr) (s : State) : StepResult :=
  .next (s.branch .w (decide (s.acc = 2)) x)

/-- JG a (43_compare_control.md R196). -/
def execJgA (x : AddrReg) (s : State) : StepResult :=
  .next (s.branch .a (decide (s.acc = 2)) (s.ar x))

/-- OVER w (43_compare_control.md R197). -/
def execOverW (x : Addr) (s : State) : StepResult :=
  .next (s.branch .w s.ov x)

/-- OVER a (43_compare_control.md R198). -/
def execOverA (x : AddrReg) (s : State) : StepResult :=
  .next (s.branch .a s.ov (s.ar x))

/-- NOVER w (43_compare_control.md R199). -/
def execNoverW (x : Addr) (s : State) : StepResult :=
  .next (s.branch .w (!s.ov) x)

/-- NOVER a (43_compare_control.md R200). -/
def execNoverA (x : AddrReg) (s : State) : StepResult :=
  .next (s.branch .a (!s.ov) (s.ar x))

/-- CALL w (43_compare_control.md R201). -/
def execCallW (x : Addr) (s : State) : StepResult :=
  callTo x .w s

/-- CALL a (43_compare_control.md R202). -/
def execCallA (x : AddrReg) (s : State) : StepResult :=
  callTo (s.ar x) .a s

/-- RET: pop 16 bits into PC, FP unchanged (43_compare_control.md R203). -/
def execRet (s : State) : StepResult :=
  require (s.canPop 2) .stackUnderflow s <|
    .next { s.dropBytes 2 with pc := s.top16 }

end Sys2Proof.Machine
end

