-- ==== Sys2Proof/Machine/DataMovement.lean ====
section
/-! DEFINITION. Data movement: CPY, SWP, MEMR, MEMW, MEMC, LD, LEN (42_data_movement.md). -/
namespace Sys2Proof.Machine

/-- CPY r r (42_data_movement.md R140). -/
def execCpyRR (x y : DataReg) (s : State) : StepResult :=
  .next ((s.advance .rr).setDr x (s.dr y))

/-- CPY r n (42_data_movement.md R141). -/
def execCpyRN (x : DataReg) (y : Num) (s : State) : StepResult :=
  .next ((s.advance .rn).setDr x y)

/-- CPY r a: a byte of DATA (42_data_movement.md R142). -/
def execCpyRA (x : DataReg) (y : AddrReg) (s : State) : StepResult :=
  require (rangeOk (s.ar y).toNat 1 s.data.length) .dataOutOfRange s <|
    .next ((s.advance .ra).setDr x (byteAt s.data (s.ar y).toNat))

/-- CPY a a (42_data_movement.md R143). -/
def execCpyAA (x y : AddrReg) (s : State) : StepResult :=
  .next ((s.advance .aa).setAr x (s.ar y))

/-- CPY a w (42_data_movement.md R144). -/
def execCpyAW (x : AddrReg) (y : Addr) (s : State) : StepResult :=
  .next ((s.advance .aw).setAr x y)

/-- CPY a r r: high byte first (42_data_movement.md R145). -/
def execCpyARR (x : AddrReg) (y z : DataReg) (s : State) : StepResult :=
  .next ((s.advance .arr).setAr x (be16 (s.dr y) (s.dr z)))

/-- CPY r r a: the high byte is written first, then the low byte (42_data_movement.md R146). -/
def execCpyRRA (x y : DataReg) (z : AddrReg) (s : State) : StepResult :=
  .next (((s.advance .rra).setDr x (hiByte (s.ar z))).setDr y (loByte (s.ar z)))

/-- SWP r r (42_data_movement.md R147). -/
def execSwpRR (x y : DataReg) (s : State) : StepResult :=
  .next (((s.advance .rr).setDr x (s.dr y)).setDr y (s.dr x))

/-- SWP a a (42_data_movement.md R148). -/
def execSwpAA (x y : AddrReg) (s : State) : StepResult :=
  .next (((s.advance .aa).setAr x (s.ar y)).setAr y (s.ar x))

/-- MEMR w (42_data_movement.md R149). -/
def execMemrW (x : Addr) (s : State) : StepResult :=
  require (rangeOk x.toNat 1 Config.memSize) .memOutOfRange s <|
    .next ((s.advance .w).setDr .acc (Memory.read s.mem x.toNat))

/-- MEMR a (42_data_movement.md R150). -/
def execMemrA (x : AddrReg) (s : State) : StepResult :=
  require (rangeOk (s.ar x).toNat 1 Config.memSize) .memOutOfRange s <|
    .next ((s.advance .a).setDr .acc (Memory.read s.mem (s.ar x).toNat))

/-- MEMW w (42_data_movement.md R151). -/
def execMemwW (x : Addr) (s : State) : StepResult :=
  require (rangeOk x.toNat 1 Config.memSize) .memOutOfRange s <|
    .next { s.advance .w with mem := Memory.write s.mem x.toNat s.acc }

/-- MEMW a (42_data_movement.md R152). -/
def execMemwA (x : AddrReg) (s : State) : StepResult :=
  require (rangeOk (s.ar x).toNat 1 Config.memSize) .memOutOfRange s <|
    .next { s.advance .a with mem := Memory.write s.mem (s.ar x).toNat s.acc }

/-- MEMC a a: ACC bytes from DATA to MEM, the source checked first (42_data_movement.md R153). -/
def execMemcAA (x y : AddrReg) (s : State) : StepResult :=
  require (rangeOk (s.ar x).toNat s.acc.toNat s.data.length) .dataOutOfRange s <|
    require (rangeOk (s.ar y).toNat s.acc.toNat Config.memSize) .memOutOfRange s <|
      .next { s.advance .aa with
        mem := Memory.writeBytes s.mem (s.ar y).toNat (bytesAt s.data (s.ar x).toNat s.acc.toNat) }

/-- LD a t n n (42_data_movement.md R155). -/
def execLdATNN (x : AddrReg) (y : DataId) (z u : Num) (s : State) : StepResult :=
  loadOffset x .atnn (ldOffset s.data y.toNat z.toNat u.toNat) s

/-- LD a t r r (42_data_movement.md R156). -/
def execLdATRR (x : AddrReg) (y : DataId) (z u : DataReg) (s : State) : StepResult :=
  loadOffset x .atrr (ldOffset s.data y.toNat (s.dr z).toNat (s.dr u).toNat) s

/-- LEN t n (42_data_movement.md R158). -/
def execLenTN (x : DataId) (y : Num) (s : State) : StepResult :=
  loadLength .tn (lenValue s.data x.toNat y.toNat) s

/-- LEN t r (42_data_movement.md R159). -/
def execLenTR (x : DataId) (y : DataReg) (s : State) : StepResult :=
  loadLength .tr (lenValue s.data x.toNat (s.dr y).toNat) s

end Sys2Proof.Machine
end

