-- ==== Sys2Proof/Machine/Files.lean ====
section
/-! DEFINITION. The file port: FOPEN, FILER, FILEW, FSKIP, FSEEK, FCHK (46_files.md). -/
namespace Sys2Proof.Machine

/-- FOPEN n: the file's size to D3..D0, 0 where the handle is unavailable (46_files.md R252). -/
def execFopenN (x : Num) (s : State) : StepResult :=
  match s.avail x with
  | (true, t) => .next ((t.advance .n).setSize (t.host.fileSize x))
  | (false, t) => .next ((t.advance .n).setSize 0)

/-- FILER n w (46_files.md R253). -/
def execFilerNW (x : Num) (y : Addr) (s : State) : StepResult :=
  fileReadTo x y.toNat .nw s

/-- FILER n a (46_files.md R254). -/
def execFilerNA (x : Num) (y : AddrReg) (s : State) : StepResult :=
  fileReadTo x (s.ar y).toNat .na s

/-- FILEW n w (46_files.md R255). -/
def execFilewNW (x : Num) (y : Addr) (s : State) : StepResult :=
  fileWriteFrom x y.toNat .nw s

/-- FILEW n a (46_files.md R256). -/
def execFilewNA (x : Num) (y : AddrReg) (s : State) : StepResult :=
  fileWriteFrom x (s.ar y).toNat .na s

/-- FILEW n r (46_files.md R257). -/
def execFilewNR (x : Num) (y : DataReg) (s : State) : StepResult :=
  fileWriteBytes x [s.dr y] .nr s

/-- FILEW n n (46_files.md R258). -/
def execFilewNN (x : Num) (y : Num) (s : State) : StepResult :=
  fileWriteBytes x [y] .nn s

/-- FSKIP n r (46_files.md R259). -/
def execFskipNR (x : Num) (y : DataReg) (s : State) : StepResult :=
  match s.avail x with
  | (false, t) => .next { t.advance .nr with acc := 0 }
  | (true, t) =>
    let (k, h) := t.host.fileSkip x (t.handle x).cursor.toNat (s.dr y).toNat
    let t := { t.advance .nr with host := h, acc := BitVec.ofNat 8 k }
    .next (t.bumpCursor x k)

/-- FSEEK n (46_files.md R260). -/
def execFseekN (x : Num) (s : State) : StepResult :=
  match s.avail x with
  | (true, t) => .next ((t.advance .n).setHandle x { t.handle x with cursor := s.seekPosition })
  | (false, t) => .next (t.advance .n)

/-- FCHK n w (46_files.md R261). -/
def execFchkNW (x : Num) (y : Addr) (s : State) : StepResult :=
  fileBranch x y .nw s

/-- FCHK n a (46_files.md R262). -/
def execFchkNA (x : Num) (y : AddrReg) (s : State) : StepResult :=
  fileBranch x (s.ar y) .na s

end Sys2Proof.Machine
end

