-- ==== Sys2Proof/Machine/Input.lean ====
section
/-! DEFINITION. Input and miscellany: IPOLL, RCHR, RSTR, NOP, HALT, RAND, SEED, TIME (47_input_misc.md). -/
namespace Sys2Proof.Machine

/-- IPOLL to a target (47_input_misc.md R271). -/
def pollTo (target : Word) (f : Format) (s : State) : StepResult :=
  match s.keyReady with
  | (ready, t) => .next (t.branch f ready target)

/-- IPOLL w (47_input_misc.md R271). -/
def execIpollW (x : Addr) (s : State) : StepResult :=
  pollTo x .w s

/-- IPOLL a (47_input_misc.md R272). -/
def execIpollA (x : AddrReg) (s : State) : StepResult :=
  pollTo (s.ar x) .a s

/-- RCHR r: a key, or the wait for one (47_input_misc.md R273). -/
def execRchrR (x : DataReg) (s : State) : StepResult :=
  match s.takeKey with
  | (some b, t) => .next ((t.advance .r).setDr x b)
  | (none, t) => .next (t.waitForKey x)

/-- RSTR into the buffer at `a`: a line, or the wait for one; the buffer check covers all 255 bytes
(47_input_misc.md R274). -/
def readLineTo (a : Word) (f : Format) (s : State) : StepResult :=
  require (rangeOk a.toNat Config.rstrMax Config.memSize) .memOutOfRange s <|
    match s.takeLine with
    | (some l, t) => .next ((t.advance f).storeLine a l)
    | (none, t) => .next (t.waitForLine a f)

/-- RSTR w (47_input_misc.md R274). -/
def execRstrW (x : Addr) (s : State) : StepResult :=
  readLineTo x .w s

/-- RSTR a (47_input_misc.md R275). -/
def execRstrA (x : AddrReg) (s : State) : StepResult :=
  readLineTo (s.ar x) .a s

/-- NOP (47_input_misc.md R276). -/
def execNop (s : State) : StepResult :=
  .next (s.advance .bare)

/-- HALT: PC keeps PCn (47_input_misc.md R277). -/
def execHalt (s : State) : StepResult :=
  .next ((s.advance .bare).halt .haltInstr)

/-- RAND r: the open generator's next byte (47_input_misc.md R278). -/
def execRandR (x : DataReg) (s : State) : StepResult :=
  .next { (s.advance .r).setDr x (Config.prngNext s.prng).1 with prng := (Config.prngNext s.prng).2 }

/-- SEED r (47_input_misc.md R279). -/
def execSeedR (x : DataReg) (s : State) : StepResult :=
  .next { s.advance .r with prng := Config.seedExtend (s.dr x) }

/-- TIME: D0, D1, D2 from the wall clock (47_input_misc.md R280). -/
def execTime (s : State) : StepResult :=
  match s.readClock with
  | (c, t) => .next { t.advance .bare with d0 := c.seconds, d1 := c.minutes, d2 := c.hours }

end Sys2Proof.Machine
end

