-- ==== Sys2Proof/Machine/Output.lean ====
section
/-! DEFINITION. The output port: PRT, PRTC, PRTS, PRTLN, PRTD, MEMP, DEBUG (45_print.md). -/
namespace Sys2Proof.Machine

/-- PRT r (45_print.md R232). -/
def execPrtR (x : DataReg) (s : State) : StepResult :=
  printBytes (decimal (s.dr x)) .r s

/-- PRT n (45_print.md R233). -/
def execPrtN (x : Num) (s : State) : StepResult :=
  printBytes (decimal x) .n s

/-- PRTC r (45_print.md R234). -/
def execPrtcR (x : DataReg) (s : State) : StepResult :=
  printBytes [s.dr x] .r s

/-- PRTC n (45_print.md R235). -/
def execPrtcN (x : Num) (s : State) : StepResult :=
  printBytes [x] .n s

/-- PRTS s: a length byte of STR and the bytes after it; an empty entry needs no byte after its length
(45_print.md R236). -/
def execPrtsS (x : StringId) (s : State) : StepResult :=
  let n := (byteAt s.str x.toNat).toNat
  require (rangeOk x.toNat 1 s.str.length) .stringOutOfRange s <|
    require (n == 0 || rangeOk (x.toNat + 1) n s.str.length) .stringOutOfRange s <|
      printBytes (bytesAt s.str (x.toNat + 1) n) .s s

/-- PRTLN (45_print.md R237). -/
def execPrtln (s : State) : StepResult :=
  printBytes [0x0A] .bare s

/-- PRTD a: ACC bytes of DATA (45_print.md R238). -/
def execPrtdA (x : AddrReg) (s : State) : StepResult :=
  require (rangeOk (s.ar x).toNat s.acc.toNat s.data.length) .dataOutOfRange s <|
    printBytes (bytesAt s.data (s.ar x).toNat s.acc.toNat) .a s

/-- MEMP a: ACC bytes of MEM (45_print.md R239). -/
def execMempA (x : AddrReg) (s : State) : StepResult :=
  require (rangeOk (s.ar x).toNat s.acc.toNat Config.memSize) .memOutOfRange s <|
    printBytes (Memory.readBytes s.mem (s.ar x).toNat s.acc.toNat) .a s

/-- DEBUG: a dump with PC = PCn (45_print.md R240). -/
def execDebug (s : State) : StepResult :=
  printDump .bare s

end Sys2Proof.Machine
end

