-- ==== Sys2Proof/Machine/Stack.lean ====
section
/-! DEFINITION. The stack instructions: PUSH, POP, ARG (44_stack.md). -/
namespace Sys2Proof.Machine

/-- PUSH r (44_stack.md R213). -/
def execPushR (x : DataReg) (s : State) : StepResult :=
  require (s.canPush 1) .stackOverflow s <| .next ((s.advance .r).push8 (s.dr x))

/-- PUSH n (44_stack.md R214). -/
def execPushN (x : Num) (s : State) : StepResult :=
  require (s.canPush 1) .stackOverflow s <| .next ((s.advance .n).push8 x)

/-- PUSH a (44_stack.md R215). -/
def execPushA (x : AddrReg) (s : State) : StepResult :=
  require (s.canPush 2) .stackOverflow s <| .next ((s.advance .a).push16 (s.ar x))

/-- POP r (44_stack.md R216). -/
def execPopR (x : DataReg) (s : State) : StepResult :=
  require (s.canPop 1) .stackUnderflow s <| .next (((s.advance .r).dropBytes 1).setDr x s.top8)

/-- POP a (44_stack.md R217). -/
def execPopA (x : AddrReg) (s : State) : StepResult :=
  require (s.canPop 2) .stackUnderflow s <| .next (((s.advance .a).dropBytes 2).setAr x s.top16)

/-- ARG r n (44_stack.md R218). -/
def execArgRN (x : DataReg) (y : Num) (s : State) : StepResult :=
  require (rangeOk (s.argAddr y) 1 Config.memSize) .memOutOfRange s <|
    .next ((s.advance .rn).setDr x (Memory.read s.mem (s.argAddr y)))

/-- ARG a n: the low byte from the lower address (44_stack.md R219). -/
def execArgAN (x : AddrReg) (y : Num) (s : State) : StepResult :=
  require (rangeOk (s.argAddr y) 2 Config.memSize) .memOutOfRange s <|
    .next ((s.advance .an).setAr x
      (be16 (Memory.read s.mem (s.argAddr y + 1)) (Memory.read s.mem (s.argAddr y))))

end Sys2Proof.Machine
end

