-- ==== Sys2Proof/Machine/Dispatch.lean ====
section
/-! DEFINITION. The meaning of every instruction: one arm per constructor of Instr. -/
namespace Sys2Proof.Machine

/-- What an instruction does in a state whose PC is the address of its opcode byte; the status is not read (log 5). -/
def exec (i : Instr) (s : State) : Host.Outcome State Fault Refusal :=
  match i with
  | .addRR x y => Sys2Proof.Machine.execAddRR x y s
  | .addRN x y => Sys2Proof.Machine.execAddRN x y s
  | .addRA x y => Sys2Proof.Machine.execAddRA x y s
  | .subRR x y => Sys2Proof.Machine.execSubRR x y s
  | .subRN x y => Sys2Proof.Machine.execSubRN x y s
  | .subRA x y => Sys2Proof.Machine.execSubRA x y s
  | .incR x => Sys2Proof.Machine.execIncR x s
  | .incA x => Sys2Proof.Machine.execIncA x s
  | .decR x => Sys2Proof.Machine.execDecR x s
  | .decA x => Sys2Proof.Machine.execDecA x s
  | .andRR x y => Sys2Proof.Machine.execAndRR x y s
  | .andRN x y => Sys2Proof.Machine.execAndRN x y s
  | .orRR x y => Sys2Proof.Machine.execOrRR x y s
  | .orRN x y => Sys2Proof.Machine.execOrRN x y s
  | .xorRR x y => Sys2Proof.Machine.execXorRR x y s
  | .xorRN x y => Sys2Proof.Machine.execXorRN x y s
  | .notR x => Sys2Proof.Machine.execNotR x s
  | .cpyRR x y => Sys2Proof.Machine.execCpyRR x y s
  | .cpyRN x y => Sys2Proof.Machine.execCpyRN x y s
  | .cpyRA x y => Sys2Proof.Machine.execCpyRA x y s
  | .cpyAA x y => Sys2Proof.Machine.execCpyAA x y s
  | .cpyAW x y => Sys2Proof.Machine.execCpyAW x y s
  | .cpyARR x y z => Sys2Proof.Machine.execCpyARR x y z s
  | .cpyRRA x y z => Sys2Proof.Machine.execCpyRRA x y z s
  | .swpRR x y => Sys2Proof.Machine.execSwpRR x y s
  | .swpAA x y => Sys2Proof.Machine.execSwpAA x y s
  | .memrW x => Sys2Proof.Machine.execMemrW x s
  | .memrA x => Sys2Proof.Machine.execMemrA x s
  | .memwW x => Sys2Proof.Machine.execMemwW x s
  | .memwA x => Sys2Proof.Machine.execMemwA x s
  | .memcAA x y => Sys2Proof.Machine.execMemcAA x y s
  | .ldATNN x y z u => Sys2Proof.Machine.execLdATNN x y z u s
  | .ldATRR x y z u => Sys2Proof.Machine.execLdATRR x y z u s
  | .lenTN x y => Sys2Proof.Machine.execLenTN x y s
  | .lenTR x y => Sys2Proof.Machine.execLenTR x y s
  | .cmpRR x y => Sys2Proof.Machine.execCmpRR x y s
  | .cmpRN x y => Sys2Proof.Machine.execCmpRN x y s
  | .cmpRA x y => Sys2Proof.Machine.execCmpRA x y s
  | .cmpAA x y => Sys2Proof.Machine.execCmpAA x y s
  | .jmpW x => Sys2Proof.Machine.execJmpW x s
  | .jmpA x => Sys2Proof.Machine.execJmpA x s
  | .jeW x => Sys2Proof.Machine.execJeW x s
  | .jeA x => Sys2Proof.Machine.execJeA x s
  | .jneW x => Sys2Proof.Machine.execJneW x s
  | .jneA x => Sys2Proof.Machine.execJneA x s
  | .jlW x => Sys2Proof.Machine.execJlW x s
  | .jlA x => Sys2Proof.Machine.execJlA x s
  | .jgW x => Sys2Proof.Machine.execJgW x s
  | .jgA x => Sys2Proof.Machine.execJgA x s
  | .overW x => Sys2Proof.Machine.execOverW x s
  | .overA x => Sys2Proof.Machine.execOverA x s
  | .noverW x => Sys2Proof.Machine.execNoverW x s
  | .noverA x => Sys2Proof.Machine.execNoverA x s
  | .callW x => Sys2Proof.Machine.execCallW x s
  | .callA x => Sys2Proof.Machine.execCallA x s
  | .ret => Sys2Proof.Machine.execRet s
  | .pushR x => Sys2Proof.Machine.execPushR x s
  | .pushN x => Sys2Proof.Machine.execPushN x s
  | .pushA x => Sys2Proof.Machine.execPushA x s
  | .popR x => Sys2Proof.Machine.execPopR x s
  | .popA x => Sys2Proof.Machine.execPopA x s
  | .argRN x y => Sys2Proof.Machine.execArgRN x y s
  | .argAN x y => Sys2Proof.Machine.execArgAN x y s
  | .prtR x => Sys2Proof.Machine.execPrtR x s
  | .prtN x => Sys2Proof.Machine.execPrtN x s
  | .prtcR x => Sys2Proof.Machine.execPrtcR x s
  | .prtcN x => Sys2Proof.Machine.execPrtcN x s
  | .prtsS x => Sys2Proof.Machine.execPrtsS x s
  | .prtln => Sys2Proof.Machine.execPrtln s
  | .prtdA x => Sys2Proof.Machine.execPrtdA x s
  | .mempA x => Sys2Proof.Machine.execMempA x s
  | .debug => Sys2Proof.Machine.execDebug s
  | .fopenN x => Sys2Proof.Machine.execFopenN x s
  | .filerNW x y => Sys2Proof.Machine.execFilerNW x y s
  | .filerNA x y => Sys2Proof.Machine.execFilerNA x y s
  | .filewNW x y => Sys2Proof.Machine.execFilewNW x y s
  | .filewNA x y => Sys2Proof.Machine.execFilewNA x y s
  | .filewNR x y => Sys2Proof.Machine.execFilewNR x y s
  | .filewNN x y => Sys2Proof.Machine.execFilewNN x y s
  | .fskipNR x y => Sys2Proof.Machine.execFskipNR x y s
  | .fseekN x => Sys2Proof.Machine.execFseekN x s
  | .fchkNW x y => Sys2Proof.Machine.execFchkNW x y s
  | .fchkNA x y => Sys2Proof.Machine.execFchkNA x y s
  | .ipollW x => Sys2Proof.Machine.execIpollW x s
  | .ipollA x => Sys2Proof.Machine.execIpollA x s
  | .rchrR x => Sys2Proof.Machine.execRchrR x s
  | .rstrW x => Sys2Proof.Machine.execRstrW x s
  | .rstrA x => Sys2Proof.Machine.execRstrA x s
  | .nop => Sys2Proof.Machine.execNop s
  | .halt => Sys2Proof.Machine.execHalt s
  | .randR x => Sys2Proof.Machine.execRandR x s
  | .seedR x => Sys2Proof.Machine.execSeedR x s
  | .time => Sys2Proof.Machine.execTime s

end Sys2Proof.Machine
end

