-- ==== Sys2Proof/Machine/Fetch.lean ====
section
/-! DEFINITION. Fetch and decode at PC (30_encoding.md R85), and an instruction's bytes placed where the fetch reads. -/
namespace Sys2Proof.Machine

/-- The trap a rejected encoding raises (30_encoding.md R85). -/
def trapOf : DecodeError → TrapKind
  | .badOpcode => .badOpcode
  | .truncated => .truncatedInstruction
  | .badRegister => .badRegister

/-- The instruction at PC, or the trap its fetch and decode raise; asked where PC is not OPS_LEN
(30_encoding.md R85, 43_compare_control.md R205). -/
def State.fetch (s : State) : Except TrapKind Instr :=
  if s.ops.length < s.pc.toNat then .error .pcOutOfRange
  else
    match decodeWith s.params.opcodeMap (s.ops.drop s.pc.toNat) with
    | .ok (i, _) => .ok i
    | .error e => .error (trapOf e)

/-- OPS with the bytes `bs` at offset `a`, as long as they need, 0x00 in any gap. -/
def placeBytes (ops : List Byte) (a : Nat) (bs : List Byte) : List Byte :=
  (List.range (max ops.length (a + bs.length))).map fun i =>
    if a ≤ i ∧ i < a + bs.length then bs.getD (i - a) 0 else ops.getD i 0

/-- The state with one instruction's bytes at PC and nothing in the way of running it: Running, no cancellation, and
in piped mode an open session, an idle port and an `f` frame to read. -/
def State.place (s : State) (bs : List Byte) : State :=
  let s := { s with
    ops := placeBytes s.ops s.pc.toNat bs
    status := .running
    host := { s.host with cancelPending := false } }
  match s.mode with
  | .direct => s
  | .piped =>
    { s with
      proto := .idle
      host := { s.host with sessionClosed := false, inbox := 0x66 :: s.host.inbox } }

end Sys2Proof.Machine
end

