-- ==== Sys2Proof/Machine/Frames.lean ====
section
/-! DEFINITION. The frames of the piped protocol as bytes (60_exceptions.md R320, R321). -/
namespace Sys2Proof.Machine

/-- Read one host→device frame from the front of a byte stream (60_exceptions.md R320). -/
def parseFrame (bs : List Byte) : FrameParse :=
  match bs with
  | [] => .incomplete
  | p :: bs =>
    match p.toNat with
    | 0x65 => .frame .step bs
    | 0x66 => .frame .stepIgnoring bs
    | 0x62 =>
      match bs with
      | h :: l :: r => .frame (.setBreakpoint (be16 h l)) r
      | _ => .incomplete
    | 0x63 =>
      match bs with
      | h :: l :: r => .frame (.clearBreakpoint (be16 h l)) r
      | _ => .incomplete
    | 0x64 => .frame .requestDump bs
    | 0x6B =>
      match bs with
      | b :: r => .frame (.key b) r
      | _ => .incomplete
    | 0x74 =>
      match bs with
      | n :: r => if n.toNat ≤ r.length then .frame (.string (r.take n.toNat)) (r.drop n.toNat) else .incomplete
      | _ => .incomplete
    | 0x6D =>
      match bs with
      | h :: l :: h' :: l' :: r => .frame (.requestMemory (be16 h l) (be16 h' l')) r
      | _ => .incomplete
    | _ => .unknown

/-- The bytes of a host→device frame (60_exceptions.md R320); a string longer than 255 bytes has none and is cut. -/
def HostFrame.wire : HostFrame → List Byte
  | .step => [0x65]
  | .stepIgnoring => [0x66]
  | .setBreakpoint pc => [0x62, hiByte pc, loByte pc]
  | .clearBreakpoint pc => [0x63, hiByte pc, loByte pc]
  | .requestDump => [0x64]
  | .key b => [0x6B, b]
  | .string bs => 0x74 :: BitVec.ofNat 8 (bs.take 255).length :: bs.take 255
  | .requestMemory lo hi => [0x6D, hiByte lo, loByte lo, hiByte hi, loByte hi]

/-- The bytes of a device→host frame (60_exceptions.md R321); the JSON text of a dump is open (log 11). -/
def DeviceFrame.wire : DeviceFrame → List Byte
  | .stdout bs => 0x6F :: BitVec.ofNat 8 bs.length :: bs
  | .stderr bs => 0x65 :: BitVec.ofNat 8 bs.length :: bs
  | .breakpoint pc => [0x68, hiByte pc, loByte pc]
  | .dump content =>
    let text := (Config.dumpJson content).take Config.frameMax
    0x64 :: BitVec.ofNat 8 text.length :: text
  | .memory bs => 0x6D :: 0 :: BitVec.ofNat 8 bs.length :: bs
  | .awaitKey => [0x6B]
  | .awaitString => [0x74]
  | .finished => [0x66]
  | .crashed => [0x63]

/-- The frames that answer a memory request: MEM[lo..=hi] in runs of at most 255 bytes (60_exceptions.md R323). -/
def memoryFrames (m : Memory) (lo hi : Word) : List DeviceFrame :=
  (payloads (Memory.readBytes m lo.toNat (hi.toNat + 1 - lo.toNat))).map .memory

end Sys2Proof.Machine
end

