-- ==== Sys2Proof/Machine/Run.lean ====
section
/-! DEFINITION. The two run loops, one boundary at a time (70_reset_and_hazards.md R356, R357), and the debug port's
frame handling (60_exceptions.md R319). -/
namespace Sys2Proof.Machine

/-- `Step()`: the end-of-ops check, the fetch and decode, then the instruction's rule (30_encoding.md R85). -/
def runOne (s : State) : StepResult :=
  if s.pc.toNat = s.ops.length then .next (s.halt .endOfOps)
  else
    match s.fetch with
    | .ok i => exec i s
    | .error k => raise k s

/-- The end-of-ops check of piped mode, right after a step and after a delivery that completes one (60_exceptions.md R319,
70_reset_and_hazards.md R357, log 16). It comes before a cancellation or a disconnect that arrived during the step:
DESIGN CHOICE, log 22. -/
def State.checkEnd (s : State) : State :=
  if s.status = .running ∧ s.pc.toNat = s.ops.length then s.halt .endOfOps else s

/-- One accepted step command of piped mode: `Step()` and the end-of-ops check (60_exceptions.md R319). -/
def portRun (s : State) : StepResult :=
  match runOne s with
  | .next t => .next t.checkEnd
  | .fault r => .fault r
  | .refused r => .refused r

/-- Add a breakpoint; idempotent (60_exceptions.md R322). -/
def addBreakpoint (bps : List Word) (pc : Word) : List Word :=
  if pc ∈ bps then bps else pc :: bps

/-- Remove a breakpoint; idempotent (60_exceptions.md R322). -/
def removeBreakpoint (bps : List Word) (pc : Word) : List Word :=
  bps.filter (· ≠ pc)

/-- A host→device frame takes effect (60_exceptions.md R319). -/
def handleFrame (f : HostFrame) (s : State) : StepResult :=
  match f with
  | .step =>
    if s.proto = .idle ∧ s.status = .running then
      if s.pc ∈ s.breakpoints then .next (s.emit (.breakpoint s.pc)) else portRun s
    else .next s
  | .stepIgnoring =>
    if s.proto = .idle ∧ s.status = .running then portRun s else .next s
  | .key b =>
    match s.proto, s.status with
    | .awaitingKey, .waitKey pc0 x => .next (s.deliverKey pc0 x b).checkEnd
    | _, _ => .next { s with keybuf := s.keybuf ++ [b] }
  | .string bs =>
    match s.proto, s.status with
    | .awaitingString, .waitStr pc0 a len => .next (s.deliverLine pc0 a len bs).checkEnd
    | _, _ => .next { s with strbuf := s.strbuf ++ [bs] }
  | .setBreakpoint pc => .next { s with breakpoints := addBreakpoint s.breakpoints pc }
  | .clearBreakpoint pc => .next { s with breakpoints := removeBreakpoint s.breakpoints pc }
  | .requestDump => .next (s.emit (.dump s.dump))
  | .requestMemory lo hi =>
    if lo.toNat ≤ hi.toNat ∧ hi.toNat < Config.memSize then .next (s.emitAll (memoryFrames s.mem lo hi))
    else .next s.closeSession

/-- One turn of the piped run loop: the next frame, a protocol error, the end of the stream, or, where no whole frame
has arrived, nothing (70_reset_and_hazards.md R357, 60_exceptions.md R320). -/
def portStep (s : State) : StepResult :=
  match parseFrame s.host.inbox with
  | .frame f rest => handleFrame f { s with host := { s.host with inbox := rest } }
  | .unknown => .next s.closeSession
  | .incomplete => if s.host.inboxClosed then .next s.closeSession else .next s

/-- One turn of the direct run loop: an instruction, or in a wait state the host's next answer
(70_reset_and_hazards.md R356, 60_exceptions.md R318). -/
def directStep (s : State) : StepResult :=
  match s.status with
  | .waitKey pc0 x =>
    match s.takeKey with
    | (some b, t) => .next (t.deliverKey pc0 x b)
    | (none, t) => .next t
  | .waitStr pc0 a len =>
    match s.takeLine with
    | (some l, t) => .next (t.deliverLine pc0 a len l)
    | (none, t) => .next t
  | _ => runOne s

/-- One instruction boundary: an ended run, a cancellation or disconnect that takes effect here, or a turn of the run
loop (60_exceptions.md R308, R309, R327). At one boundary a cancellation comes before direct mode's end-of-ops check:
DESIGN CHOICE, log 22. -/
def boundary (s : State) : StepResult :=
  if s.status.ended then
    match s.mode with
    | .direct => .fault .runEnded
    | .piped => if s.host.sessionClosed then .fault .runEnded else portStep s
  else if s.host.cancelPending then .next s.cancel
  else
    match s.mode with
    | .direct => directStep s
    | .piped => if s.host.sessionClosed then .next s.cancel else portStep s

end Sys2Proof.Machine
end

