-- ==== Sys2Proof/Machine/Step.lean ====
section
/-! DEFINITION. One step of the machine: one instruction boundary and what runs there (00_scope.md R10,
70_reset_and_hazards.md R364). -/
namespace Sys2Proof.Machine

/-- One step. -/
def step (s : State) : Host.Outcome State Fault Refusal :=
  boundary s

/-- The state with the instruction whose low `nbits` bits are those of `w` stored at PC, so that the next step fetches
and runs it. -/
def State.withFetchWord (s : State) (nbits w : Nat) : State :=
  s.place (tableBytes (w % 2 ^ nbits))

end Sys2Proof.Machine
end

