-- ==== Sys2Proof/Machine/Boot.lean ====
section
/-! DEFINITION. The image loader, the state after boot, and the exit codes (70_reset_and_hazards.md R350 to R354,
R365). -/
namespace Sys2Proof.Machine

/-- A field of `n` bytes: the bytes and what follows, or a short file (70_reset_and_hazards.md R352). -/
def takeField (n : Nat) (bs : List Byte) : Except ImageError (List Byte × List Byte) :=
  if n ≤ bs.length then .ok (bs.take n, bs.drop n) else .error .short

/-- A field with a 1-byte length, and the error of a length above `max`. -/
def takeShort (max : Nat) (tooLong : ImageError) (bs : List Byte) : Except ImageError (List Byte × List Byte) :=
  match bs with
  | [] => .error .short
  | n :: bs => if max < n.toNat then .error tooLong else takeField n.toNat bs

/-- A region with a 2-byte length, high byte first (70_reset_and_hazards.md R351). -/
def takeRegion (bs : List Byte) : Except ImageError (List Byte × List Byte) :=
  match bs with
  | h :: l :: bs => takeField (be16 h l).toNat bs
  | _ => .error .short

/-- Parse a tape file of a device whose `MAGIC` is `magic` (70_reset_and_hazards.md R351, R352). -/
def parseImage (magic bs : List Byte) : Except ImageError Image := do
  let (start, bs) ← takeField 3 bs
  if start ≠ magic then .error .badMagic
  let (name, bs) ← takeShort Config.nameMax .nameTooLong bs
  let (version, bs) ← takeShort Config.verMax .versionTooLong bs
  let (ops, bs) ← takeRegion bs
  let (strings, bs) ← takeRegion bs
  let (data, bs) ← takeRegion bs
  if bs = [] then .ok ⟨name, version, ops, strings, data⟩ else .error .trailing

/-- A region as a tape file holds it. -/
def regionBytes (r : List Byte) : List Byte :=
  hiByte (BitVec.ofNat 16 r.length) :: loByte (BitVec.ofNat 16 r.length) :: r

/-- The tape file of an image for a device whose `MAGIC` is `magic` (70_reset_and_hazards.md R351). -/
def tapeFile (magic : List Byte) (i : Image) : List Byte :=
  magic ++ BitVec.ofNat 8 i.name.length :: i.name ++ BitVec.ofNat 8 i.version.length :: i.version ++
    regionBytes i.ops ++ regionBytes i.strings ++ regionBytes i.data

/-- The state after boot of a device with parameters `p`, from a run mode, a host and an image: the reset state with
these and the image's regions; a piped run of an image without ops starts in Halted and emits `f`
(70_reset_and_hazards.md R350, R353, 60_exceptions.md R319). -/
def boot (p : Params) (mode : RunMode) (host : HostSide) (i : Image) : State :=
  let s := { State.reset with ops := i.ops, str := i.strings, data := i.data, mode := mode, params := p, host := host }
  match mode with
  | .direct => s
  | .piped => if i.ops = [] then s.halt .endOfOps else s

/-- Boot from a tape file; on an image error no instruction runs, a diagnostic is printed and the exit code is nonzero
(70_reset_and_hazards.md R352, R365). -/
def bootFile (p : Params) (mode : RunMode) (host : HostSide) (bs : List Byte) : BootResult :=
  match parseImage p.magic bs with
  | .ok i => .started (boot p mode host i)
  | .error e => .failed e (Config.imageDiagnostic bs) (Config.imageExit bs + 1)

/-- The exit code of a run that has ended: 0 on a clean end, else nonzero (70_reset_and_hazards.md R365). -/
def exitCode : Status → Option Nat
  | .halted _ => some 0
  | .crashed k => some (Config.crashExit k.code + 1)
  | .cancelled => some (Config.cancelExit + 1)
  | .running | .waitKey _ _ | .waitStr _ _ _ => none

/-- The exit code of a boot from a tape file and the run that came of it: the failed boot's own code, or the code of the
status the run ended with (70_reset_and_hazards.md R365). -/
def BootResult.exitCode (r : BootResult) : Option Nat :=
  match r with
  | .started s => Machine.exitCode s.status
  | .failed _ _ n => some n

end Sys2Proof.Machine
end

