-- ==== Sys2Proof/Safety.lean ====
section
/-! DEFINITION. The terms the statements use: the invariant of a run, what an instruction may write, and results written
down from the rules beside the machine. -/
namespace Sys2Proof.Machine

/-! ## The invariant of a run -/

/-- The three image regions fit 16-bit lengths (00_scope.md R6). -/
def State.RegionsFit (s : State) : Prop :=
  s.ops.length ≤ 65535 ∧ s.str.length ≤ 65535 ∧ s.data.length ≤ 65535

/-- In piped mode the protocol state follows the run status until the run is cancelled, and a running core is not at the
end of OPS, so that an accepted step finds an instruction to fetch (60_exceptions.md R319, R322); in direct mode the
port is not used. -/
def State.PortAgrees (s : State) : Prop :=
  match s.mode with
  | .direct => s.proto = .idle
  | .piped =>
    match s.status with
    | .running => s.proto = .idle ∧ s.pc.toNat ≠ s.ops.length
    | .waitKey _ _ => s.proto = .awaitingKey
    | .waitStr _ _ _ => s.proto = .awaitingString
    | .halted _ => s.proto = .halted
    | .crashed _ => s.proto = .crashed
    | .cancelled => True

/-- In a wait state PC is the waiting instruction's address, and the buffer a line will go to lies in MEM
(60_exceptions.md R318, 47_input_misc.md R274). -/
def State.WaitHolds (s : State) : Prop :=
  match s.status with
  | .waitKey pc0 _ => s.pc = pc0
  | .waitStr pc0 a len => s.pc = pc0 ∧ a.toNat + 255 ≤ 65535 ∧ (len = 2 ∨ len = 3)
  | _ => True

/-- What every state of a run satisfies: MEM in canonical form, regions that fit, no breakpoint listed twice, the
port and the status in step, a wait that can be ended, only files of the host opened, and parameters a device can
have. -/
def State.Inv (s : State) : Prop :=
  Memory.wf s.mem = true ∧ s.RegionsFit ∧ s.breakpoints.Nodup ∧ s.PortAgrees ∧ s.WaitHolds ∧
    (∀ f : Byte, (s.handle f).opened = true → f.toNat < s.host.files.length) ∧ s.params.wellFormed = true

/-! ## What an instruction may write -/

/-- The data registers an instruction may write (10_state.md R29). -/
def dataTargets : Instr → List DataReg
  | .addRR _ _ | .addRN _ _ | .addRA _ _ | .subRR _ _ | .subRN _ _ | .subRA _ _ | .incR _ | .decR _ => [.acc]
  | .andRR _ _ | .andRN _ _ | .orRR _ _ | .orRN _ _ | .xorRR _ _ | .xorRN _ _ | .notR _ => [.acc]
  | .cmpRR _ _ | .cmpRN _ _ | .cmpRA _ _ | .cmpAA _ _ | .memrW _ | .memrA _ | .lenTN _ _ | .lenTR _ _ => [.acc]
  | .filerNW _ _ | .filerNA _ _ | .filewNW _ _ | .filewNA _ _ | .filewNR _ _ | .filewNN _ _ => [.acc]
  | .fskipNR _ _ | .rstrW _ | .rstrA _ => [.acc]
  | .cpyRR x _ | .cpyRN x _ | .cpyRA x _ | .popR x | .argRN x _ | .rchrR x | .randR x => [x]
  | .cpyRRA x y _ | .swpRR x y => [x, y]
  | .fopenN _ => [.d0, .d1, .d2, .d3]
  | .time => [.d0, .d1, .d2]
  | _ => []

/-- The address registers an instruction may write (10_state.md R29). -/
def addrTargets : Instr → List AddrReg
  | .cpyAA x _ | .cpyAW x _ | .cpyARR x _ _ | .incA x | .decA x => [x]
  | .ldATNN x _ _ _ | .ldATRR x _ _ _ | .popA x | .argAN x _ => [x]
  | .swpAA x y => [x, y]
  | _ => []

/-- The instructions that write SP: PUSH, POP, CALL, RET (10_state.md R25, R29). -/
def writesSp : Instr → Bool
  | .pushR _ | .pushN _ | .pushA _ | .popR _ | .popA _ | .callW _ | .callA _ | .ret => true
  | _ => false

/-- The instructions that write FP: CALL (10_state.md R26, R29). -/
def writesFp : Instr → Bool
  | .callW _ | .callA _ => true
  | _ => false

/-- The instructions that write OV: ADD, SUB, INC, DEC in every shape (10_state.md R27, R29). -/
def writesOv : Instr → Bool
  | .addRR _ _ | .addRN _ _ | .addRA _ _ | .subRR _ _ | .subRN _ _ | .subRA _ _ | .incR _ | .incA _ | .decR _
  | .decA _ => true
  | _ => false

/-- The instructions that send bytes: PRT, PRTC, PRTS, PRTLN, PRTD, MEMP, DEBUG (60_exceptions.md R301). -/
def sendsOutput : Instr → Bool
  | .prtR _ | .prtN _ | .prtcR _ | .prtcN _ | .prtsS _ | .prtln | .prtdA _ | .mempA _ | .debug => true
  | _ => false

/-! ## Results, written from the rules -/

/-- The state after an 8-bit addition of `u` and `v` by an instruction of `len` bytes (41_alu.md R128). -/
def State.added (s : State) (u v len : Nat) : State :=
  { s with acc := BitVec.ofNat 8 (u + v), ov := decide (255 < u + v), pc := s.pc + BitVec.ofNat 16 len }

/-- The state after an 8-bit subtraction of `v` from `u` by an instruction of `len` bytes (41_alu.md R128). -/
def State.subtracted (s : State) (u v len : Nat) : State :=
  { s with acc := BitVec.ofNat 8 (256 + u - v), ov := decide (u < v), pc := s.pc + BitVec.ofNat 16 len }

/-- The state after a byte is put in ACC by an instruction of `len` bytes. -/
def State.accSet (s : State) (v : Byte) (len : Nat) : State :=
  { s with acc := v, pc := s.pc + BitVec.ofNat 16 len }

/-- `t` is `s` with PC moved over `len` bytes and no more changed than the data registers. -/
def State.OnlyData (s t : State) (len : Nat) : Prop :=
  t = { s with acc := t.acc, d0 := t.d0, d1 := t.d1, d2 := t.d2, d3 := t.d3, pc := s.pc + BitVec.ofNat 16 len }

/-- `t` is `s` with PC moved over `len` bytes and no more changed than the address registers. -/
def State.OnlyAddr (s t : State) (len : Nat) : Prop :=
  t = { s with a0 := t.a0, a1 := t.a1, pc := s.pc + BitVec.ofNat 16 len }

/-- `t` is `s` with PC moved over `len` bytes and no more changed than MEM. -/
def State.OnlyMem (s t : State) (len : Nat) : Prop :=
  t = { s with mem := t.mem, pc := s.pc + BitVec.ofNat 16 len }

/-- `t` is `s` with PC moved over `len` bytes and no more changed than MEM and SP. -/
def State.OnlyStack (s t : State) (len : Nat) : Prop :=
  t = { s with mem := t.mem, sp := t.sp, pc := s.pc + BitVec.ofNat 16 len }

/-- `byte a` of MEM. -/
def State.byte (s : State) (a : Nat) : Byte := Memory.read s.mem a

/-- `outerCount(id)` (20_memory.md R54). -/
def outerCount (data : List Byte) (id : Nat) : Nat := (data.getD id 0).toNat

/-- `innerLen(id, k)` (20_memory.md R54). -/
def innerLen (data : List Byte) (id k : Nat) : Nat := (data.getD (id + 1 + k) 0).toNat

/-- `rowStart(id, k)` (20_memory.md R54). -/
def rowStart (data : List Byte) (id : Nat) : Nat → Nat
  | 0 => id + 1 + outerCount data id
  | k + 1 => rowStart data id k + innerLen data id k

/-- The offset LD answers for outer index `o` and inner index `i` of the item at `id`, with all that its table and the
range checks ask (42_data_movement.md R154). -/
def LdAnswers (data : List Byte) (id o i a : Nat) : Prop :=
  id < data.length ∧ a < data.length ∧
    ((o = 0 ∧ i = 0 ∧ a = id) ∨
      (o = 0 ∧ 0 < i ∧ i ≤ outerCount data id ∧ a = id + i) ∨
      (0 < o ∧ o ≤ outerCount data id ∧ id + outerCount data id < data.length ∧ i < innerLen data id (o - 1) ∧
        a = rowStart data id (o - 1) + i))

/-- The index pair lies outside the item at `id`, whose header can be read (42_data_movement.md R154). -/
def LdIndexBad (data : List Byte) (id o i : Nat) : Prop :=
  id < data.length ∧
    ((o = 0 ∧ outerCount data id < i) ∨ outerCount data id < o ∨
      (0 < o ∧ id + outerCount data id < data.length ∧ innerLen data id (o - 1) ≤ i))

/-- The length LEN answers (42_data_movement.md R157). -/
def LenAnswers (data : List Byte) (id o v : Nat) : Prop :=
  id < data.length ∧
    ((o = 0 ∧ v = outerCount data id) ∨
      (0 < o ∧ o ≤ outerCount data id ∧ id + o < data.length ∧ v = innerLen data id (o - 1)))

/-- The output instruction `i`, of `len` bytes, passes its range check and sends the bytes `bs`
(45_print.md R232 to R239). -/
def State.Prints (s : State) (i : Instr) (bs : List Byte) (len : Nat) : Prop :=
  (∃ x, i = .prtR x ∧ bs = decimal (s.dr x) ∧ len = 2) ∨
  (∃ n, i = .prtN n ∧ bs = decimal n ∧ len = 2) ∨
  (∃ x, i = .prtcR x ∧ bs = [s.dr x] ∧ len = 2) ∨
  (∃ n, i = .prtcN n ∧ bs = [n] ∧ len = 2) ∨
  (∃ x n, i = .prtsS x ∧ s.str[x.toNat]? = some n ∧ (n = 0 ∨ x.toNat + 1 + n.toNat ≤ s.str.length) ∧
    bs = (s.str.drop (x.toNat + 1)).take n.toNat ∧ len = 3) ∨
  (i = .prtln ∧ bs = [0x0A] ∧ len = 1) ∨
  (∃ x, i = .prtdA x ∧ (s.ar x).toNat < s.data.length ∧ (s.ar x).toNat + s.acc.toNat ≤ s.data.length ∧
    bs = (s.data.drop (s.ar x).toNat).take s.acc.toNat ∧ len = 2) ∨
  (∃ x, i = .mempA x ∧ (s.ar x).toNat < 65535 ∧ (s.ar x).toNat + s.acc.toNat ≤ 65535 ∧
    bs = ((List.range s.acc.toNat).map fun k => s.byte ((s.ar x).toNat + k)) ∧ len = 2)

/-- The channel takes `n` more bytes. -/
def OutChannel.Takes (c : OutChannel) (n : Nat) : Prop :=
  ∀ m, c.left = some m → n ≤ m

/-- `t` is `s` after an instruction of `len` bytes that used handle `f` in state `u` (`s` with the handle opened on
demand): ACC is `k`, the cursor moved by `k`, a host I/O error used up, and nothing else changed but what `t` and `s`
are compared on beside this. -/
def State.Moved (u t : State) (f : Byte) (k len : Nat) : Prop :=
  t.acc = BitVec.ofNat 8 k ∧ t.pc = u.pc + BitVec.ofNat 16 len ∧
    (t.handle f).opened = (u.handle f).opened ∧ (t.handle f).cursor = (u.handle f).cursor + BitVec.ofNat 32 k ∧
    (∀ g, g ≠ f → t.handle g = u.handle g) ∧
    t = { u with acc := t.acc, pc := t.pc, mem := t.mem, handles := t.handles, host := t.host } ∧
    t.host = { u.host with files := t.host.files, ioCaps := u.host.ioCaps.tail }

end Sys2Proof.Machine
end

