-- ==== Sys2Proof/Certificates/Slice0/Obligations.lean ====
section
/-! DEFINITION. The statements for the provers. -/

open Sys2Proof Sys2Proof.Machine

/-! ## Encoding -/

/-- Decoding an encoded instruction gives it back, with every operand at every value, and leaves the bytes after it,
with the default opcode map and with every other; decoding with the default map as a parameter is decoding
(30_encoding.md R82, R85, R86; 00_scope.md R5). -/
def Obligations.DecodeEncodeAgree : Prop :=
  (∀ (i : Instr) (rest : List Byte), decode (encode i ++ rest) = .ok (i, rest)) ∧
  (∀ (m : OpcodeMap), OpcodeMap.wellFormed m = true → ∀ (i : Instr) (rest : List Byte),
    decodeWith m (encodeWith m i ++ rest) = .ok (i, rest)) ∧
  ∀ (bs : List Byte), decodeWith defaultOpcodeMap bs = decode bs

/-- Bytes that decode are the encoding of the instruction they decode to: no instruction has two encodings
(30_encoding.md R86, R89). -/
def Obligations.DecodedBytesAreTheEncoding : Prop :=
  (∀ (bs : List Byte) (i : Instr) (rest : List Byte), decode bs = .ok (i, rest) → bs = encode i ++ rest) ∧
  ∀ (m : OpcodeMap), OpcodeMap.wellFormed m = true → ∀ (bs : List Byte) (i : Instr) (rest : List Byte),
    decodeWith m bs = .ok (i, rest) → bs = encodeWith m i ++ rest

/-- Words written out from the spec's examples decode to the instructions they stand for. -/
def Obligations.SampleWordsDecode : Prop :=
  decode [0x01, 0x01, 0x02] = .ok (.addRR .d0 .d1, []) ∧
  decode [0x18, 0x03, 0x04, 0x00] = .ok (.cpyRRA .d2 .d3 .a0, []) ∧
  decode [0x21, 0x01, 0x00, 0x00, 0x01, 0x02] = .ok (.ldATRR .a1 0 .d0 .d1, []) ∧
  decode [0x36, 0x00, 0x0B] = .ok (.callW 0x000B, []) ∧
  decode [0x3F, 0x01, 0x02] = .ok (.argAN .a1 2, []) ∧
  decode [0x44, 0x00, 0x00] = .ok (.prtsS 0, []) ∧
  decode [0x52, 0x05, 0x00, 0x20] = .ok (.fchkNW 5 0x0020, []) ∧
  decode [0x57, 0xFF, 0x01] = .ok (.rstrW 0xFF01, [])

/-- R87: with the default opcode map the unassigned opcode bytes are 0x00 and 0x5E to 0xFF; fetching one raises
BadOpcode, executes nothing and leaves PC at the byte. -/
def Obligations.UnassignedOpcodesTrap : Prop :=
  (∀ (op : Byte) (rest : List Byte),
    decode (op :: rest) = .error .badOpcode ↔ (op.toNat = 0 ∨ 0x5E ≤ op.toNat)) ∧
  ∀ (s : State) (op : Byte) (rest : List Byte), s.params.opcodeMap = defaultOpcodeMap →
    s.ops.drop s.pc.toNat = op :: rest → (op.toNat = 0 ∨ 0x5E ≤ op.toNat) →
      ∃ t, runOne s = .next t ∧ t.status = .crashed .badOpcode ∧
        t = { s with status := t.status, proto := t.proto, host := t.host }

/-- With any opcode map the decoder checks the opcode, then the length, then the registers, and refuses nothing else
(30_encoding.md R85, R88; 60_exceptions.md R307). -/
def Obligations.LengthIsCheckedBeforeRegisters : Prop :=
  ∀ (m : OpcodeMap) (op : Byte) (rest : List Byte),
    (OpcodeMap.wellFormed m = true → (decodeWith m (op :: rest) = .error .badOpcode ↔ op ∉ m.map Prod.fst)) ∧
    ∀ (f : Format), formatWith m op = some f →
    (rest.length + 1 < f.length → decodeWith m (op :: rest) = .error .truncated) ∧
    (f.length ≤ rest.length + 1 → operandsLegal f.fields rest = false →
      decodeWith m (op :: rest) = .error .badRegister) ∧
    (f.length ≤ rest.length + 1 → operandsLegal f.fields rest = true →
      ∃ i, decodeWith m (op :: rest) = .ok (i, rest.drop (f.length - 1)))

/-- A host→device frame is read back from its bytes, with the bytes after it left (60_exceptions.md R320). -/
def Obligations.HostFramesRoundTrip : Prop :=
  ∀ (f : HostFrame) (rest : List Byte), (∀ bs, f = .string bs → bs.length ≤ 255) →
    parseFrame (f.wire ++ rest) = .frame f rest

/-! ## The step -/

/-- In direct mode a running core with no cancellation pending runs the instruction that the bytes at PC decode to:
the step is exec of it and nothing more (30_encoding.md R85; what the step adds around exec in piped mode is below).
-/
def Obligations.StepRunsTheDecodedInstruction : Prop :=
  ∀ (s : State) (i : Instr) (rest : List Byte), s.mode = .direct → s.status = .running →
    s.host.cancelPending = false → decodeWith s.params.opcodeMap (s.ops.drop s.pc.toNat) = .ok (i, rest) →
      step s = exec i s

/-- In piped mode an `f` frame, or an `e` frame with no breakpoint at PC, runs the instruction that the bytes at PC
decode to, and then makes the end-of-ops check (60_exceptions.md R319). -/
def Obligations.PipedStepRunsTheDecodedInstruction : Prop :=
  ∀ (s t : State) (i : Instr) (rest inbox : List Byte), s.mode = .piped → s.status = .running → s.proto = .idle →
    s.host.cancelPending = false → s.host.sessionClosed = false →
    (s.host.inbox = 0x66 :: inbox ∨ (s.host.inbox = 0x65 :: inbox ∧ s.pc ∉ s.breakpoints)) →
    decodeWith s.params.opcodeMap (s.ops.drop s.pc.toNat) = .ok (i, rest) →
    exec i { s with host := { s.host with inbox := inbox } } = .next t →
      step s = .next (if t.status = .running ∧ t.pc.toNat = t.ops.length then t.halt .endOfOps else t) ∧
      (t.status = .running → t.pc.toNat = t.ops.length → t.mode = .piped → t.host.sentLeft = none →
        step s = .next { t with
          status := .halted .endOfOps, proto := .halted
          host := { t.host with sent := t.host.sent ++ [.finished] } })

/-- At a boundary PC = OPS_LEN ends the run cleanly, PC beyond it traps with PC left there, and bytes that decode to
nothing trap by their name: at every boundary of direct mode, and for an accepted step frame of piped mode, which then
emits `f` or `c` (30_encoding.md R85, 43_compare_control.md R205, 60_exceptions.md R319). -/
def Obligations.BoundaryOutcomes : Prop :=
  ∀ (s : State), s.status = .running → s.host.cancelPending = false →
    let trapName (e : DecodeError) : TrapKind := match e with
      | .badOpcode => .badOpcode
      | .truncated => .truncatedInstruction
      | .badRegister => .badRegister
    let undecodable (e : DecodeError) : Prop :=
      s.pc.toNat < s.ops.length ∧ decodeWith s.params.opcodeMap (s.ops.drop s.pc.toNat) = .error e
    (s.mode = .direct →
      (s.pc.toNat = s.ops.length → step s = .next { s with status := .halted .endOfOps }) ∧
      (s.ops.length < s.pc.toNat → step s = .next (s.takeTrap .pcOutOfRange)) ∧
      ∀ e, undecodable e → step s = .next (s.takeTrap (trapName e))) ∧
    (s.mode = .piped → s.proto = .idle → s.host.sessionClosed = false → s.host.sentLeft = none →
      ∀ r, (s.host.inbox = 0x66 :: r ∨ (s.host.inbox = 0x65 :: r ∧ s.pc ∉ s.breakpoints)) →
        let ended (st : Status) (p : Proto) (f : DeviceFrame) : State := { s with
          status := st, proto := p, host := { s.host with inbox := r, sent := s.host.sent ++ [f] } }
        (s.pc.toNat = s.ops.length → step s = .next (ended (.halted .endOfOps) .halted .finished)) ∧
        (s.ops.length < s.pc.toNat → step s = .next (ended (.crashed .pcOutOfRange) .crashed .crashed)) ∧
        ∀ e, undecodable e → step s = .next (ended (.crashed (trapName e)) .crashed .crashed))

/-! ## The ALU -/

/-- R110: every 8-bit ADD, SUB, INC and DEC writes ACC with its result mod 256 and OV with whether the result left
0..255, and nothing else but PC; the `r a` shapes take the byte of DATA the address register points at. -/
def Obligations.EightBitArithmetic : Prop :=
  ∀ (s : State) (x y : DataReg) (n : Byte) (a : AddrReg),
    exec (.addRR x y) s = .next (s.added (s.dr x).toNat (s.dr y).toNat 3) ∧
    exec (.addRN x n) s = .next (s.added (s.dr x).toNat n.toNat 3) ∧
    exec (.subRR x y) s = .next (s.subtracted (s.dr x).toNat (s.dr y).toNat 3) ∧
    exec (.subRN x n) s = .next (s.subtracted (s.dr x).toNat n.toNat 3) ∧
    exec (.incR x) s = .next (s.added (s.dr x).toNat 1 2) ∧
    exec (.decR x) s = .next (s.subtracted (s.dr x).toNat 1 2) ∧
    ∀ v, s.data[(s.ar a).toNat]? = some v →
      exec (.addRA x a) s = .next (s.added (s.dr x).toNat v.toNat 3) ∧
      exec (.subRA x a) s = .next (s.subtracted (s.dr x).toNat v.toNat 3)

/-- INC a and DEC a write the register mod 65536 and OV by the 16-bit range, not ACC (41_alu.md R118, R120). -/
def Obligations.AddressRegisterIncDec : Prop :=
  ∀ (s : State) (x : AddrReg),
    exec (.incA x) s = .next { s.setAr x (BitVec.ofNat 16 ((s.ar x).toNat + 1)) with
      ov := decide ((s.ar x).toNat = 65535), pc := s.pc + 2 } ∧
    exec (.decA x) s = .next { s.setAr x (BitVec.ofNat 16 (65536 + (s.ar x).toNat - 1)) with
      ov := decide ((s.ar x).toNat = 0), pc := s.pc + 2 }

/-- AND, OR, XOR and NOT write ACC bit by bit and leave OV and everything else but PC (41_alu.md R121 to R127). -/
def Obligations.BitwiseResults : Prop :=
  ∀ (s : State) (x y : DataReg) (n : Byte),
    exec (.andRR x y) s = .next (s.accSet (s.dr x &&& s.dr y) 3) ∧
    exec (.andRN x n) s = .next (s.accSet (s.dr x &&& n) 3) ∧
    exec (.orRR x y) s = .next (s.accSet (s.dr x ||| s.dr y) 3) ∧
    exec (.orRN x n) s = .next (s.accSet (s.dr x ||| n) 3) ∧
    exec (.xorRR x y) s = .next (s.accSet (s.dr x ^^^ s.dr y) 3) ∧
    exec (.xorRN x n) s = .next (s.accSet (s.dr x ^^^ n) 3) ∧
    exec (.notR x) s = .next (s.accSet (BitVec.ofNat 8 (255 - (s.dr x).toNat)) 2)

/-! ## Data movement -/

/-- CPY to data registers and SWP of data registers: what every data register holds afterwards, the low byte winning
where CPY r r a names one register twice (42_data_movement.md R140, R141, R142, R146, R147). -/
def Obligations.DataRegisterCopies : Prop :=
  ∀ (s : State) (x y : DataReg) (n : Byte) (a : AddrReg),
    (∃ t, exec (.cpyRR x y) s = .next t ∧ s.OnlyData t 3 ∧ ∀ q, t.dr q = if q = x then s.dr y else s.dr q) ∧
    (∃ t, exec (.cpyRN x n) s = .next t ∧ s.OnlyData t 3 ∧ ∀ q, t.dr q = if q = x then n else s.dr q) ∧
    (∀ v, s.data[(s.ar a).toNat]? = some v →
      ∃ t, exec (.cpyRA x a) s = .next t ∧ s.OnlyData t 3 ∧ ∀ q, t.dr q = if q = x then v else s.dr q) ∧
    (∃ t, exec (.cpyRRA x y a) s = .next t ∧ s.OnlyData t 4 ∧ ∀ q, t.dr q =
      if q = y then BitVec.ofNat 8 ((s.ar a).toNat % 256)
      else if q = x then BitVec.ofNat 8 ((s.ar a).toNat / 256) else s.dr q) ∧
    (∃ t, exec (.swpRR x y) s = .next t ∧ s.OnlyData t 3 ∧
      ∀ q, t.dr q = if q = x then s.dr y else if q = y then s.dr x else s.dr q)

/-- CPY to address registers and SWP of address registers (42_data_movement.md R143, R144, R145, R148). -/
def Obligations.AddressRegisterCopies : Prop :=
  ∀ (s : State) (x y : AddrReg) (w : Addr) (h l : DataReg),
    (∃ t, exec (.cpyAA x y) s = .next t ∧ s.OnlyAddr t 3 ∧ ∀ q, t.ar q = if q = x then s.ar y else s.ar q) ∧
    (∃ t, exec (.cpyAW x w) s = .next t ∧ s.OnlyAddr t 4 ∧ ∀ q, t.ar q = if q = x then w else s.ar q) ∧
    (∃ t, exec (.cpyARR x h l) s = .next t ∧ s.OnlyAddr t 4 ∧ (t.ar x).toNat = (s.dr h).toNat * 256 + (s.dr l).toNat ∧
      ∀ q, q ≠ x → t.ar q = s.ar q) ∧
    (∃ t, exec (.swpAA x y) s = .next t ∧ s.OnlyAddr t 3 ∧
      ∀ q, t.ar q = if q = x then s.ar y else if q = y then s.ar x else s.ar q)

/-- MEMR puts the byte of MEM in ACC at every address but 0xFFFF (42_data_movement.md R149, R150). -/
def Obligations.MemoryByteReads : Prop :=
  ∀ (s : State) (w : Addr) (x : AddrReg),
    (w ≠ 0xFFFF → exec (.memrW w) s = .next (s.accSet (s.byte w.toNat) 3)) ∧
    (s.ar x ≠ 0xFFFF → exec (.memrA x) s = .next (s.accSet (s.byte (s.ar x).toNat) 2))

/-- MEMW stores ACC at the address and changes no other byte, at every address but 0xFFFF (42_data_movement.md R151,
R152). -/
def Obligations.MemoryByteWrites : Prop :=
  ∀ (s : State) (w : Addr) (x : AddrReg),
    (w ≠ 0xFFFF → ∃ t, exec (.memwW w) s = .next t ∧ s.OnlyMem t 3 ∧
      ∀ b, t.byte b = if b = w.toNat then s.acc else s.byte b) ∧
    (s.ar x ≠ 0xFFFF → ∃ t, exec (.memwA x) s = .next t ∧ s.OnlyMem t 2 ∧
      ∀ b, t.byte b = if b = (s.ar x).toNat then s.acc else s.byte b)

/-- MEMC copies ACC bytes of DATA to MEM and changes no other byte (42_data_movement.md R153). -/
def Obligations.MemcCopiesDataToMemory : Prop :=
  ∀ (s : State) (x y : AddrReg), (s.ar x).toNat < s.data.length → (s.ar x).toNat + s.acc.toNat ≤ s.data.length →
    (s.ar y).toNat < 65535 → (s.ar y).toNat + s.acc.toNat ≤ 65535 →
      ∃ t, exec (.memcAA x y) s = .next t ∧ s.OnlyMem t 3 ∧
        ∀ b, t.byte b =
          if (s.ar y).toNat ≤ b ∧ b < (s.ar y).toNat + s.acc.toNat then
            s.data.getD ((s.ar x).toNat + (b - (s.ar y).toNat)) 0
          else s.byte b

/-- LD gives the offset of the packed table's entry; an index outside the item raises BadLdIndex; anything else that
has no answer raises DataOutOfRange (42_data_movement.md R154, R155, R156). -/
def Obligations.LdComputesPackedOffsets : Prop :=
  ∀ (s : State) (x : AddrReg) (id : DataId) (z u : Byte) (zr ur : DataReg),
    let o := z.toNat
    let i := u.toNat
    let o' := (s.dr zr).toNat
    let i' := (s.dr ur).toNat
    (∀ a, LdAnswers s.data id.toNat o i a →
      exec (.ldATNN x id z u) s = .next { s.setAr x (BitVec.ofNat 16 a) with pc := s.pc + 6 }) ∧
    (LdIndexBad s.data id.toNat o i → exec (.ldATNN x id z u) s = .next (s.takeTrap .badLdIndex)) ∧
    ((¬ ∃ a, LdAnswers s.data id.toNat o i a) → ¬ LdIndexBad s.data id.toNat o i →
      exec (.ldATNN x id z u) s = .next (s.takeTrap .dataOutOfRange)) ∧
    (∀ a, LdAnswers s.data id.toNat o' i' a →
      exec (.ldATRR x id zr ur) s = .next { s.setAr x (BitVec.ofNat 16 a) with pc := s.pc + 6 }) ∧
    (LdIndexBad s.data id.toNat o' i' → exec (.ldATRR x id zr ur) s = .next (s.takeTrap .badLdIndex)) ∧
    ((¬ ∃ a, LdAnswers s.data id.toNat o' i' a) → ¬ LdIndexBad s.data id.toNat o' i' →
      exec (.ldATRR x id zr ur) s = .next (s.takeTrap .dataOutOfRange))

/-- LEN puts the outer count or a row's length in ACC; an index above the outer count raises BadLdIndex; anything else
that has no answer raises DataOutOfRange (42_data_movement.md R157, R158, R159). -/
def Obligations.LenReadsPackedLengths : Prop :=
  ∀ (s : State) (id : DataId) (z : Byte) (zr : DataReg),
    let o := z.toNat
    let o' := (s.dr zr).toNat
    (∀ v, LenAnswers s.data id.toNat o v → exec (.lenTN id z) s = .next (s.accSet (BitVec.ofNat 8 v) 4)) ∧
    (id.toNat < s.data.length → outerCount s.data id.toNat < o →
      exec (.lenTN id z) s = .next (s.takeTrap .badLdIndex)) ∧
    ((¬ ∃ v, LenAnswers s.data id.toNat o v) → ¬ (id.toNat < s.data.length ∧ outerCount s.data id.toNat < o) →
      exec (.lenTN id z) s = .next (s.takeTrap .dataOutOfRange)) ∧
    (∀ v, LenAnswers s.data id.toNat o' v → exec (.lenTR id zr) s = .next (s.accSet (BitVec.ofNat 8 v) 4)) ∧
    (id.toNat < s.data.length → outerCount s.data id.toNat < o' →
      exec (.lenTR id zr) s = .next (s.takeTrap .badLdIndex)) ∧
    ((¬ ∃ v, LenAnswers s.data id.toNat o' v) → ¬ (id.toNat < s.data.length ∧ outerCount s.data id.toNat < o') →
      exec (.lenTR id zr) s = .next (s.takeTrap .dataOutOfRange))

/-! ## Compare and control -/

/-- R180: every CMP writes ACC with 0, 1 or 2 for equal, below and above, unsigned, and nothing else but PC. -/
def Obligations.CompareResults : Prop :=
  ∀ (s : State) (x y : DataReg) (n : Byte) (a b : AddrReg),
    let c (l r : Nat) : Byte := if l < r then 1 else if r < l then 2 else 0
    exec (.cmpRR x y) s = .next (s.accSet (c (s.dr x).toNat (s.dr y).toNat) 3) ∧
    exec (.cmpRN x n) s = .next (s.accSet (c (s.dr x).toNat n.toNat) 3) ∧
    exec (.cmpAA a b) s = .next (s.accSet (c (s.ar a).toNat (s.ar b).toNat) 3) ∧
    ∀ v, s.data[(s.ar a).toNat]? = some v →
      exec (.cmpRA x a) s = .next (s.accSet (c (s.dr x).toNat v.toNat) 3)

/-- JMP writes PC with its target and nothing else, without a check (43_compare_control.md R185, R186, R187). -/
def Obligations.JumpsGoToTheirTarget : Prop :=
  ∀ (s : State) (w : Addr) (x : AddrReg),
    exec (.jmpW w) s = .next { s with pc := w } ∧ exec (.jmpA x) s = .next { s with pc := s.ar x }

/-- R188: each conditional jump goes to its target where its condition on ACC or OV holds, else on to the next
instruction, and writes nothing else. -/
def Obligations.ConditionalJumps : Prop :=
  ∀ (s : State) (w : Addr) (x : AddrReg),
    exec (.jeW w) s = .next { s with pc := if s.acc.toNat = 0 then w else s.pc + 3 } ∧
    exec (.jeA x) s = .next { s with pc := if s.acc.toNat = 0 then s.ar x else s.pc + 2 } ∧
    exec (.jneW w) s = .next { s with pc := if s.acc.toNat = 0 then s.pc + 3 else w } ∧
    exec (.jneA x) s = .next { s with pc := if s.acc.toNat = 0 then s.pc + 2 else s.ar x } ∧
    exec (.jlW w) s = .next { s with pc := if s.acc.toNat = 1 then w else s.pc + 3 } ∧
    exec (.jlA x) s = .next { s with pc := if s.acc.toNat = 1 then s.ar x else s.pc + 2 } ∧
    exec (.jgW w) s = .next { s with pc := if s.acc.toNat = 2 then w else s.pc + 3 } ∧
    exec (.jgA x) s = .next { s with pc := if s.acc.toNat = 2 then s.ar x else s.pc + 2 } ∧
    exec (.overW w) s = .next { s with pc := if s.ov = true then w else s.pc + 3 } ∧
    exec (.overA x) s = .next { s with pc := if s.ov = true then s.ar x else s.pc + 2 } ∧
    exec (.noverW w) s = .next { s with pc := if s.ov = true then s.pc + 3 else w } ∧
    exec (.noverA x) s = .next { s with pc := if s.ov = true then s.pc + 2 else s.ar x }

/-- R201, R202: CALL, with its encodings in the default opcode map, pushes the next instruction's address, high byte
at SP-1 and low byte at SP-2, sets FP to the new SP and goes to its target; no other byte or register changes; with SP
below 2 it raises StackOverflow. -/
def Obligations.CallPushesReturnAddress : Prop :=
  (∀ w : Addr, encode (.callW w) = [0x36, BitVec.ofNat 8 (w.toNat / 256), BitVec.ofNat 8 (w.toNat % 256)]) ∧
  (∀ x : AddrReg, encode (.callA x) = [0x37, match x with | .a0 => 0 | .a1 => 1]) ∧
  ∀ (s : State) (i : Instr) (target : Word) (len : Nat),
    ((∃ w, i = .callW w ∧ target = w ∧ len = 3) ∨ (∃ x, i = .callA x ∧ target = s.ar x ∧ len = 2)) →
    (2 ≤ s.sp.toNat →
      ∃ t, exec i s = .next t ∧ t = { s with pc := target, sp := t.sp, fp := t.sp, mem := t.mem } ∧
        t.sp.toNat = s.sp.toNat - 2 ∧
        ∀ b, t.byte b =
          if b = s.sp.toNat - 1 then BitVec.ofNat 8 ((s.pc + BitVec.ofNat 16 len).toNat / 256)
          else if b = s.sp.toNat - 2 then BitVec.ofNat 8 ((s.pc + BitVec.ofNat 16 len).toNat % 256)
          else s.byte b) ∧
    (s.sp.toNat < 2 → exec i s = .next (s.takeTrap .stackOverflow))

/-- R203: RET, encoded as 38 in the default opcode map, pops PC, low byte at SP and high byte at SP+1, moves SP up by
2 and changes nothing else, FP neither; with fewer than two stack bytes it raises StackUnderflow. -/
def Obligations.RetPopsTheProgramCounter : Prop :=
  encode .ret = [0x38] ∧ ∀ (s : State),
    (s.sp.toNat ≤ 0xFFFD →
      exec .ret s = .next { s with
        pc := BitVec.ofNat 16 ((s.byte (s.sp.toNat + 1)).toNat * 256 + (s.byte s.sp.toNat).toNat), sp := s.sp + 2 }) ∧
    (0xFFFD < s.sp.toNat → exec .ret s = .next (s.takeTrap .stackUnderflow))

/-! ## Stack -/

/-- PUSH stores below SP, a 16-bit value with its high byte at the higher address, and moves SP down by its width; no
other byte changes (44_stack.md R213, R214, R215). -/
def Obligations.PushStoresBelow : Prop :=
  ∀ (s : State) (x : DataReg) (n : Byte) (a : AddrReg),
    (1 ≤ s.sp.toNat → ∃ t, exec (.pushR x) s = .next t ∧ s.OnlyStack t 2 ∧ t.sp.toNat = s.sp.toNat - 1 ∧
      ∀ b, t.byte b = if b = s.sp.toNat - 1 then s.dr x else s.byte b) ∧
    (1 ≤ s.sp.toNat → ∃ t, exec (.pushN n) s = .next t ∧ s.OnlyStack t 2 ∧ t.sp.toNat = s.sp.toNat - 1 ∧
      ∀ b, t.byte b = if b = s.sp.toNat - 1 then n else s.byte b) ∧
    (2 ≤ s.sp.toNat → ∃ t, exec (.pushA a) s = .next t ∧ s.OnlyStack t 2 ∧ t.sp.toNat = s.sp.toNat - 2 ∧
      ∀ b, t.byte b =
        if b = s.sp.toNat - 1 then BitVec.ofNat 8 ((s.ar a).toNat / 256)
        else if b = s.sp.toNat - 2 then BitVec.ofNat 8 ((s.ar a).toNat % 256)
        else s.byte b)

/-- POP loads the bytes at SP and moves SP up by its width; MEM and every other register stay (44_stack.md R216,
R217). -/
def Obligations.PopLoads : Prop :=
  ∀ (s : State) (x : DataReg) (a : AddrReg),
    (s.sp.toNat ≤ 0xFFFE → exec (.popR x) s = .next { s.setDr x (s.byte s.sp.toNat) with
      sp := s.sp + 1, pc := s.pc + 2 }) ∧
    (s.sp.toNat ≤ 0xFFFD → exec (.popA a) s = .next
      { s.setAr a (BitVec.ofNat 16 ((s.byte (s.sp.toNat + 1)).toNat * 256 + (s.byte s.sp.toNat).toNat)) with
        sp := s.sp + 2, pc := s.pc + 2 })

/-- ARG reads MEM[FP + n + ARG_BIAS], or the two bytes there with the low byte first, into its register and changes
nothing else but PC (44_stack.md R218, R219, ARG_BIAS a parameter of the state, log 1). -/
def Obligations.ArgReads : Prop :=
  ∀ (s : State) (x : DataReg) (a : AddrReg) (n : Byte),
    let e := s.fp.toNat + n.toNat + s.params.argBias
    (e < 65535 → exec (.argRN x n) s = .next { s.setDr x (s.byte e) with pc := s.pc + 3 }) ∧
    (e + 1 < 65535 → exec (.argAN a n) s = .next
      { s.setAr a (BitVec.ofNat 16 ((s.byte (e + 1)).toNat * 256 + (s.byte e).toNat)) with pc := s.pc + 3 })

/-- A push with fewer free bytes below SP than it needs raises StackOverflow, a pop with fewer stack bytes than it
needs raises StackUnderflow, and nothing is moved (44_stack.md R210 to R217). -/
def Obligations.StackBoundTraps : Prop :=
  ∀ (s : State) (x : DataReg) (n : Byte) (a : AddrReg),
    (s.sp.toNat = 0 → exec (.pushR x) s = .next (s.takeTrap .stackOverflow) ∧
      exec (.pushN n) s = .next (s.takeTrap .stackOverflow)) ∧
    (s.sp.toNat < 2 → exec (.pushA a) s = .next (s.takeTrap .stackOverflow)) ∧
    (s.sp.toNat = 0xFFFF → exec (.popR x) s = .next (s.takeTrap .stackUnderflow)) ∧
    (0xFFFD < s.sp.toNat → exec (.popA a) s = .next (s.takeTrap .stackUnderflow))

/-- What PUSH pushed, POP pops, and RET goes to the instruction after a CALL, with SP back, where nothing between
changed SP or the pushed bytes; FP is not restored by RET (44_stack.md R220, 70_reset_and_hazards.md R361, R362). -/
def Obligations.StackLaws : Prop :=
  (∀ (s t u : State) (x y : DataReg), 1 ≤ s.sp.toNat → exec (.pushR x) s = .next t → u.sp = t.sp →
    u.byte t.sp.toNat = t.byte t.sp.toNat →
      ∃ v, exec (.popR y) u = .next v ∧ v.dr y = s.dr x ∧ v.sp = s.sp) ∧
  (∀ (s t u : State) (x y : AddrReg), 2 ≤ s.sp.toNat → exec (.pushA x) s = .next t → u.sp = t.sp →
    u.byte t.sp.toNat = t.byte t.sp.toNat → u.byte (t.sp.toNat + 1) = t.byte (t.sp.toNat + 1) →
      ∃ v, exec (.popA y) u = .next v ∧ v.ar y = s.ar x ∧ v.sp = s.sp) ∧
  (∀ (s t u : State) (w : Addr), 2 ≤ s.sp.toNat → exec (.callW w) s = .next t → u.sp = t.sp →
    u.byte t.sp.toNat = t.byte t.sp.toNat → u.byte (t.sp.toNat + 1) = t.byte (t.sp.toNat + 1) →
      ∃ v, exec .ret u = .next v ∧ v.pc = s.pc + 3 ∧ v.sp = s.sp ∧ v.fp = u.fp)

/-! ## Output -/

/-- R231: Dec(v) is the decimal numeral of v: digits, each sent as 0x30 plus the digit, no leading zero. -/
def Obligations.DecimalRendering : Prop :=
  ∀ v : Byte, ∃ d ds, decimal v = (d :: ds).map (fun n => BitVec.ofNat 8 (0x30 + n)) ∧
    (∀ n ∈ d :: ds, n < 10) ∧ (d = 0 → ds = []) ∧ (d :: ds).foldl (fun a n => a * 10 + n) 0 = v.toNat

/-- In direct mode PRT, PRTC, PRTS, PRTLN, PRTD and MEMP send their bytes to stdout where it takes them, and change
nothing else but PC (45_print.md R230, R232 to R239; how much a channel takes is the model's field, log 10). -/
def Obligations.PrintInDirectMode : Prop :=
  ∀ (s : State) (i : Instr) (bs : List Byte) (len : Nat), s.Prints i bs len → s.mode = .direct →
    s.host.stdout.Takes bs.length →
      ∃ t, exec i s = .next t ∧ t.host.stdout.taken = s.host.stdout.taken ++ bs ∧
        t = { s with pc := s.pc + BitVec.ofNat 16 len, host := { s.host with stdout := t.host.stdout } }

/-- In piped mode the bytes of an output instruction go out in one `o` frame, none where there are no bytes, and
nothing else changes but PC (60_exceptions.md R321; one frame an instruction is the model's choice, log 15). -/
def Obligations.PrintInPipedMode : Prop :=
  ∀ (s : State) (i : Instr) (bs : List Byte) (len : Nat), s.Prints i bs len → s.mode = .piped →
    s.host.sentLeft = none →
      exec i s = .next { s with
        pc := s.pc + BitVec.ofNat 16 len
        host := { s.host with sent := s.host.sent ++ if bs = [] then [] else [.stdout bs] } }

/-- A stdout that breaks while an output instruction sends raises IoBroken: the bytes it took stay taken, PC stays at
the instruction, no register or byte of MEM changes (45_print.md R230, 60_exceptions.md R304; logs 10, 11). -/
def Obligations.BrokenStdoutTraps : Prop :=
  ∀ (s : State) (i : Instr) (bs : List Byte) (len m : Nat), s.Prints i bs len → s.mode = .direct →
    s.host.stdout.left = some m → m < bs.length →
      ∃ t, exec i s = .next t ∧ t.status = .crashed .ioBroken ∧
        t.host.stdout.taken = s.host.stdout.taken ++ bs.take m ∧
        t = { s with status := t.status, host := { s.host with stdout := t.host.stdout, stderr := t.host.stderr } }

/-- DEBUG sends the 16 bytes of the dump, with PC already past it: rendered on stderr in direct mode, raising IoBroken
where stderr breaks, and in a `d` frame in piped mode (45_print.md R240, 10_state.md R39; the rendering is a free
value, logs 10, 11). -/
def Obligations.DebugDumps : Prop :=
  ∀ (s : State),
    let pcn := s.pc + 1
    let half (w : Word) : List Byte := [BitVec.ofNat 8 (w.toNat / 256), BitVec.ofNat 8 (w.toNat % 256)]
    let dump := half pcn ++ half s.a0 ++ half s.a1 ++ half s.sp ++ half s.fp ++
      [s.acc, s.d0, s.d1, s.d2, s.d3, if s.ov then 1 else 0]
    let text := Config.dumpText dump
    (s.mode = .direct → s.host.stderr.left = none →
      exec .debug s = .next { s with
        pc := pcn, host := { s.host with stderr := ⟨s.host.stderr.taken ++ text, none⟩ } }) ∧
    (s.mode = .direct → ∀ m, s.host.stderr.left = some m →
      ∃ t, exec .debug s = .next t ∧ t.host.stderr.taken = s.host.stderr.taken ++ text.take m ∧
        t.status = (if m < text.length then .crashed .ioBroken else s.status) ∧
        t.pc = (if m < text.length then s.pc else pcn) ∧
        t = { s with status := t.status, pc := t.pc, host := { s.host with stderr := t.host.stderr } }) ∧
    (s.mode = .piped → s.host.sentLeft = none →
      exec .debug s = .next { s with pc := pcn, host := { s.host with sent := s.host.sent ++ [.dump dump] } })

/-! ## Ranges -/

/-- Every access outside its space raises the space's trap before anything is written or asked of the host
(60_exceptions.md R301, R307; 20_memory.md R53). -/
def Obligations.RangeTraps : Prop :=
  ∀ (s : State) (x : DataReg) (a b : AddrReg) (f n : Byte) (w : Addr) (sid : StringId),
    let outData := .next (s.takeTrap .dataOutOfRange)
    let outMem := .next (s.takeTrap .memOutOfRange)
    let outside (start count size : Nat) := size ≤ start ∨ size < start + count
    (s.data.length ≤ (s.ar a).toNat → exec (.addRA x a) s = outData ∧ exec (.subRA x a) s = outData ∧
      exec (.cpyRA x a) s = outData ∧ exec (.cmpRA x a) s = outData) ∧
    (w = 0xFFFF → exec (.memrW w) s = outMem ∧ exec (.memwW w) s = outMem) ∧
    (s.ar a = 0xFFFF → exec (.memrA a) s = outMem ∧ exec (.memwA a) s = outMem) ∧
    (outside (s.ar a).toNat s.acc.toNat s.data.length → exec (.memcAA a b) s = outData ∧
      exec (.prtdA a) s = outData) ∧
    (¬ outside (s.ar a).toNat s.acc.toNat s.data.length → outside (s.ar b).toNat s.acc.toNat 65535 →
      exec (.memcAA a b) s = outMem) ∧
    (outside (s.ar a).toNat s.acc.toNat 65535 → exec (.mempA a) s = outMem ∧ exec (.filerNA f a) s = outMem ∧
      exec (.filewNA f a) s = outMem) ∧
    (outside w.toNat s.acc.toNat 65535 → exec (.filerNW f w) s = outMem ∧ exec (.filewNW f w) s = outMem) ∧
    (65535 < w.toNat + 255 → exec (.rstrW w) s = outMem) ∧
    (65535 < (s.ar a).toNat + 255 → exec (.rstrA a) s = outMem) ∧
    (65535 ≤ s.fp.toNat + n.toNat + s.params.argBias → exec (.argRN x n) s = outMem) ∧
    (65535 < s.fp.toNat + n.toNat + s.params.argBias + 2 → exec (.argAN a n) s = outMem) ∧
    (s.str.length ≤ sid.toNat ∨
        ((s.str.getD sid.toNat 0).toNat ≠ 0 ∧ s.str.length < sid.toNat + 1 + (s.str.getD sid.toNat 0).toNat) →
      exec (.prtsS sid) s = .next (s.takeTrap .stringOutOfRange))

/-! ## Files -/

/-- R251: an opened handle is available and the host is not asked; else the host is asked, and where it opens the file
the handle is opened with its cursor as it was; a host that refuses leaves the handle closed (the host's refusals are
answers the state lists, log 9). -/
def Obligations.HandlesOpenOnDemand : Prop :=
  ∀ (s : State) (f : Byte),
    ((s.handle f).opened = true → s.avail f = (true, s)) ∧
    ((s.handle f).opened = false →
      let ok := (s.host.files[f.toNat]?.any (·.openable)) && s.host.openAnswers.headD true
      ∃ t, s.avail f = (ok, t) ∧ (t.handle f).opened = ok ∧ (t.handle f).cursor = (s.handle f).cursor ∧
        (∀ g, g ≠ f → t.handle g = s.handle g) ∧
        t = { s with handles := t.handles, host := { s.host with openAnswers := s.host.openAnswers.tail } })

/-- R252: FOPEN, encoded as 49 and its handle id in the default opcode map, on an available handle puts the file's
size in D3 to D0, most significant byte in D3, else 0 in all four, and changes nothing else but PC (the size bound is
the premise of 92_eei_decisions.md D42). -/
def Obligations.FopenReportsSize : Prop :=
  (∀ f : Byte, encode (.fopenN f) = [0x49, f]) ∧ ∀ (s u : State) (f : Byte),
    (s.avail f = (true, u) → (u.host.fileBytes f).length < 4294967296 →
      ∃ t, exec (.fopenN f) s = .next t ∧
        t.d3.toNat * 16777216 + t.d2.toNat * 65536 + t.d1.toNat * 256 + t.d0.toNat = (u.host.fileBytes f).length ∧
        t = { u with d3 := t.d3, d2 := t.d2, d1 := t.d1, d0 := t.d0, pc := s.pc + 2 }) ∧
    (s.avail f = (false, u) →
      exec (.fopenN f) s = .next { u with d3 := 0, d2 := 0, d1 := 0, d0 := 0, pc := s.pc + 2 })

/-- FILER on an available handle and a buffer in MEM stores k bytes of the file from the cursor on, k at most ACC and
what the file has left, fewer only on a host I/O error; ACC becomes k, the cursor moves by k, no other byte changes
(46_files.md R253, R254; 60_exceptions.md R312, R316; log 9). -/
def Obligations.FilerReads : Prop :=
  ∀ (s u : State) (f : Byte) (i : Instr) (a len : Nat),
    ((∃ w, i = .filerNW f w ∧ a = w.toNat ∧ len = 4) ∨ (∃ x, i = .filerNA f x ∧ a = (s.ar x).toNat ∧ len = 3)) →
    a < 65535 → a + s.acc.toNat ≤ 65535 → s.avail f = (true, u) →
      ∃ t k, exec i s = .next t ∧ u.Moved t f k len ∧ t.host.files = u.host.files ∧
        k ≤ min s.acc.toNat ((u.host.fileBytes f).length - (u.handle f).cursor.toNat) ∧
        (u.host.ioCaps = [] → k = min s.acc.toNat ((u.host.fileBytes f).length - (u.handle f).cursor.toNat)) ∧
        ∀ b, t.byte b =
          if a ≤ b ∧ b < a + k then (u.host.fileBytes f).getD ((u.handle f).cursor.toNat + (b - a)) 0
          else s.byte b

/-- FILEW on an available handle writes the first k of its bytes at the cursor, filling a gap with 0x00, k all of them
where no host I/O error stops it below position 2^32 - 1; ACC becomes k, the cursor moves by k, MEM and every other
file stay (46_files.md R255 to R258; 60_exceptions.md R316; log 9). -/
def Obligations.FilewWrites : Prop :=
  ∀ (s u : State) (f : Byte) (i : Instr) (bs : List Byte) (len : Nat),
    ((∃ w, i = .filewNW f w ∧ w.toNat < 65535 ∧ w.toNat + s.acc.toNat ≤ 65535 ∧ len = 4 ∧
        bs = (List.range s.acc.toNat).map fun k => s.byte (w.toNat + k)) ∨
      (∃ x, i = .filewNA f x ∧ (s.ar x).toNat < 65535 ∧ (s.ar x).toNat + s.acc.toNat ≤ 65535 ∧ len = 3 ∧
        bs = (List.range s.acc.toNat).map fun k => s.byte ((s.ar x).toNat + k)) ∨
      (∃ x, i = .filewNR f x ∧ len = 3 ∧ bs = [s.dr x]) ∨ (∃ n, i = .filewNN f n ∧ len = 3 ∧ bs = [n])) →
    s.avail f = (true, u) → f.toNat < u.host.files.length →
      let p := (u.handle f).cursor.toNat
      ∃ t k, exec i s = .next t ∧ u.Moved t f k len ∧ t.mem = s.mem ∧ k ≤ bs.length ∧
        (u.host.ioCaps = [] → p + bs.length ≤ 4294967295 → k = bs.length) ∧
        (t.host.fileBytes f).length = max (u.host.fileBytes f).length (p + k) ∧
        (∀ j, (t.host.fileBytes f).getD j 0 =
          if p ≤ j ∧ j < p + k then bs.getD (j - p) 0 else (u.host.fileBytes f).getD j 0) ∧
        ∀ g, g ≠ f → t.host.fileBytes g = u.host.fileBytes g

/-- On an available handle FSKIP moves the cursor by k, at most its count and what the file has left, fewer only on a
host I/O error, and ACC becomes k; FSEEK sets the cursor to D3..D0; FCHK goes to its target; nothing else changes but
PC (46_files.md R259, R260, R261, R262; log 9). -/
def Obligations.CursorMovesAndChecks : Prop :=
  ∀ (s u : State) (f : Byte) (x : DataReg) (w : Addr) (a : AddrReg), s.avail f = (true, u) →
    (∃ t k, exec (.fskipNR f x) s = .next t ∧ u.Moved t f k 3 ∧ t.mem = s.mem ∧ t.host.files = u.host.files ∧
      k ≤ min (s.dr x).toNat ((u.host.fileBytes f).length - (u.handle f).cursor.toNat) ∧
      (u.host.ioCaps = [] → k = min (s.dr x).toNat ((u.host.fileBytes f).length - (u.handle f).cursor.toNat))) ∧
    (∃ t, exec (.fseekN f) s = .next t ∧ t = { u with handles := t.handles, pc := s.pc + 2 } ∧
      (t.handle f).cursor.toNat =
        s.d3.toNat * 16777216 + s.d2.toNat * 65536 + s.d1.toNat * 256 + s.d0.toNat ∧
      (t.handle f).opened = (u.handle f).opened ∧ ∀ g, g ≠ f → t.handle g = u.handle g) ∧
    exec (.fchkNW f w) s = .next { u with pc := w } ∧ exec (.fchkNA f a) s = .next { u with pc := s.ar a }

/-- On a handle that is not available a file instruction gives its side-channel result and no trap: ACC = 0, no effect
for FSEEK, no branch for FCHK (46_files.md R251, R253 to R262). -/
def Obligations.UnavailableHandles : Prop :=
  ∀ (s u : State) (f n : Byte) (x : DataReg) (w : Addr) (a : AddrReg), s.avail f = (false, u) →
    (w.toNat < 65535 → w.toNat + s.acc.toNat ≤ 65535 →
      exec (.filerNW f w) s = .next { u with acc := 0, pc := s.pc + 4 } ∧
      exec (.filewNW f w) s = .next { u with acc := 0, pc := s.pc + 4 }) ∧
    ((s.ar a).toNat < 65535 → (s.ar a).toNat + s.acc.toNat ≤ 65535 →
      exec (.filerNA f a) s = .next { u with acc := 0, pc := s.pc + 3 } ∧
      exec (.filewNA f a) s = .next { u with acc := 0, pc := s.pc + 3 }) ∧
    exec (.filewNR f x) s = .next { u with acc := 0, pc := s.pc + 3 } ∧
    exec (.filewNN f n) s = .next { u with acc := 0, pc := s.pc + 3 } ∧
    exec (.fskipNR f x) s = .next { u with acc := 0, pc := s.pc + 3 } ∧
    exec (.fseekN f) s = .next { u with pc := s.pc + 2 } ∧
    exec (.fchkNW f w) s = .next { u with pc := s.pc + 4 } ∧
    exec (.fchkNA f a) s = .next { u with pc := s.pc + 3 }

/-! ## Input and miscellany -/

/-- IPOLL goes to its target exactly where a key is ready and takes no key: in piped mode where keybuf is not empty,
in direct mode as the host answers, with a free value where the state lists no answer (47_input_misc.md R270, R271,
R272; log 7). -/
def Obligations.IpollBranches : Prop :=
  ∀ (s : State) (i : Instr) (target : Word) (len : Nat),
    ((∃ w, i = .ipollW w ∧ target = w ∧ len = 3) ∨ (∃ x, i = .ipollA x ∧ target = s.ar x ∧ len = 2)) →
    (s.mode = .piped → exec i s = .next { s with
      pc := if s.keybuf = [] then s.pc + BitVec.ofNat 16 len else target }) ∧
    (s.mode = .direct → ∀ b r, s.host.ready = b :: r → exec i s = .next { s with
      pc := if b = true then target else s.pc + BitVec.ofNat 16 len, host := { s.host with ready := r } }) ∧
    (s.mode = .direct → s.host.ready = [] → ∃ b : Bool, exec i s = .next { s with
      pc := if b = true then target else s.pc + BitVec.ofNat 16 len
      host := { s.host with draws := s.host.draws + 1 } })

/-- RCHR puts the next key in its register; without a key it waits with PC at the instruction, and in piped mode the
port enters AwaitingKey and emits `k` (47_input_misc.md R273; the host's answers of direct mode are the model's list,
whose end means that no key is there, log 8). -/
def Obligations.RchrTakesOrWaits : Prop :=
  ∀ (s : State) (x : DataReg),
    (s.mode = .piped → ∀ b r, s.keybuf = b :: r →
      exec (.rchrR x) s = .next { s.setDr x b with keybuf := r, pc := s.pc + 2 }) ∧
    (s.mode = .piped → s.keybuf = [] → s.host.sentLeft = none →
      exec (.rchrR x) s = .next { s with
        status := .waitKey s.pc x, proto := .awaitingKey
        host := { s.host with sent := s.host.sent ++ [.awaitKey] } }) ∧
    (s.mode = .direct → ∀ b r, s.host.keys = some b :: r →
      exec (.rchrR x) s = .next { s.setDr x b with pc := s.pc + 2, host := { s.host with keys := r } }) ∧
    (s.mode = .direct → s.host.keys = [] → exec (.rchrR x) s = .next { s with status := .waitKey s.pc x }) ∧
    (s.mode = .direct → ∀ r, s.host.keys = none :: r →
      exec (.rchrR x) s = .next { s with status := .waitKey s.pc x, host := { s.host with keys := r } })

/-- RSTR stores the next line, cut at 255 bytes, ACC its length, no other byte changed; without a line it waits with
PC at the instruction, and in piped mode the port enters AwaitingString and emits `t` (47_input_misc.md R274, R275;
logs 8, 14). -/
def Obligations.RstrStoresOrWaits : Prop :=
  ∀ (s : State) (i : Instr) (a : Word) (len : Nat),
    ((∃ w, i = .rstrW w ∧ a = w ∧ len = 3) ∨ (∃ x, i = .rstrA x ∧ a = s.ar x ∧ len = 2)) →
    a.toNat + 255 ≤ 65535 →
    (∀ l, ((s.mode = .piped ∧ ∃ r, s.strbuf = l :: r) ∨ (s.mode = .direct ∧ ∃ r, s.host.lines = some l :: r)) →
      ∃ t, exec i s = .next t ∧ t.acc.toNat = min l.length 255 ∧
        (∀ b, t.byte b =
          if a.toNat ≤ b ∧ b < a.toNat + min l.length 255 then l.getD (b - a.toNat) 0 else s.byte b) ∧
        (s.mode = .piped → t = { s with
          acc := t.acc, mem := t.mem, pc := s.pc + BitVec.ofNat 16 len, strbuf := s.strbuf.tail }) ∧
        (s.mode = .direct → t = { s with
          acc := t.acc, mem := t.mem, pc := s.pc + BitVec.ofNat 16 len
          host := { s.host with lines := s.host.lines.tail } })) ∧
    (s.mode = .piped → s.strbuf = [] → s.host.sentLeft = none →
      exec i s = .next { s with
        status := .waitStr s.pc a len, proto := .awaitingString
        host := { s.host with sent := s.host.sent ++ [.awaitString] } }) ∧
    (s.mode = .direct → s.host.lines = [] → exec i s = .next { s with status := .waitStr s.pc a len }) ∧
    (s.mode = .direct → ∀ r, s.host.lines = none :: r →
      exec i s = .next { s with status := .waitStr s.pc a len, host := { s.host with lines := r } })

/-- A wait ends with the host's delivery: the waiting instruction completes and the core runs again; in piped mode the
run ends with the `f` frame where that was the last instruction. Until then nothing changes: in direct mode an answer
that nothing has arrived is used up and no more, in piped mode `e` and `f` frames are read and ignored, and without a
whole frame the step waits (47_input_misc.md R273, R274; 60_exceptions.md R318, R319; 70_reset_and_hazards.md R357;
logs 8, 13, 14, 16). -/
def Obligations.WaitsEndWithDelivery : Prop :=
  ∀ (s : State), s.host.cancelPending = false →
    (∀ pc0 x b r, s.mode = .direct → s.status = .waitKey pc0 x → s.host.keys = some b :: r →
      step s = .next { s.setDr x b with pc := pc0 + 2, status := .running, host := { s.host with keys := r } }) ∧
    (∀ pc0 x, s.mode = .direct → s.status = .waitKey pc0 x → s.host.keys = [] → step s = .next s) ∧
    (∀ pc0 x b r, s.mode = .piped → s.host.sessionClosed = false → s.status = .waitKey pc0 x →
      s.proto = .awaitingKey → s.host.inbox = 0x6B :: b :: r →
        let t := { s.setDr x b with
          pc := pc0 + 2, status := .running, proto := .idle, host := { s.host with inbox := r } }
        ((pc0 + 2).toNat ≠ s.ops.length → step s = .next t) ∧
        ((pc0 + 2).toNat = s.ops.length → s.host.sentLeft = none → step s = .next { t with
          status := .halted .endOfOps, proto := .halted
          host := { t.host with sent := s.host.sent ++ [.finished] } })) ∧
    (∀ pc0 a len l r, s.mode = .direct → s.status = .waitStr pc0 a len → s.host.lines = some l :: r →
      a.toNat + 255 ≤ 65535 →
        ∃ t, step s = .next t ∧ t.acc.toNat = min l.length 255 ∧
          (∀ b, t.byte b =
            if a.toNat ≤ b ∧ b < a.toNat + min l.length 255 then l.getD (b - a.toNat) 0 else s.byte b) ∧
          t = { s with
            acc := t.acc, mem := t.mem, pc := pc0 + BitVec.ofNat 16 len, status := .running
            host := { s.host with lines := r } }) ∧
    (∀ pc0 a len n l r, s.mode = .piped → s.host.sessionClosed = false → s.status = .waitStr pc0 a len →
      s.proto = .awaitingString → s.host.inbox = 0x74 :: n :: (l ++ r) → l.length = n.toNat →
      a.toNat + 255 ≤ 65535 →
        let pcn := pc0 + BitVec.ofNat 16 len
        ∃ t, step s = .next t ∧ t.acc = n ∧
          (∀ b, t.byte b = if a.toNat ≤ b ∧ b < a.toNat + l.length then l.getD (b - a.toNat) 0 else s.byte b) ∧
          (pcn.toNat ≠ s.ops.length → t = { s with
            acc := t.acc, mem := t.mem, pc := pcn, status := .running, proto := .idle
            host := { s.host with inbox := r } }) ∧
          (pcn.toNat = s.ops.length → s.host.sentLeft = none → t = { s with
            acc := t.acc, mem := t.mem, pc := pcn, status := .halted .endOfOps, proto := .halted
            host := { s.host with inbox := r, sent := s.host.sent ++ [.finished] } })) ∧
    (∀ pc0 x r, s.mode = .direct → s.status = .waitKey pc0 x → s.host.keys = none :: r →
      step s = .next { s with host := { s.host with keys := r } }) ∧
    (∀ pc0 a len, s.mode = .direct → s.status = .waitStr pc0 a len →
      (s.host.lines = [] → step s = .next s) ∧
      ∀ r, s.host.lines = none :: r → step s = .next { s with host := { s.host with lines := r } }) ∧
    (s.mode = .piped → s.host.sessionClosed = false →
      ((∃ pc0 x, s.status = .waitKey pc0 x ∧ s.proto = .awaitingKey) ∨
        ∃ pc0 a len, s.status = .waitStr pc0 a len ∧ s.proto = .awaitingString) →
      (∀ r, s.host.inbox = 0x65 :: r ∨ s.host.inbox = 0x66 :: r →
        step s = .next { s with host := { s.host with inbox := r } }) ∧
      (parseFrame s.host.inbox = .incomplete → s.host.inboxClosed = false → step s = .next s))

/-- NOP only advances; HALT ends the run with PC past it; RAND and SEED use the open generator; TIME writes D0 to D2
with a reading of the clock (47_input_misc.md R276 to R280; free values: logs 6, 7). -/
def Obligations.MiscellaneousResults : Prop :=
  ∀ (s : State) (x : DataReg),
    exec .nop s = .next { s with pc := s.pc + 1 } ∧
    (s.mode = .direct → exec .halt s = .next { s with pc := s.pc + 1, status := .halted .haltInstr }) ∧
    (s.mode = .piped → s.host.sentLeft = none → exec .halt s = .next { s with
      pc := s.pc + 1, status := .halted .haltInstr, proto := .halted
      host := { s.host with sent := s.host.sent ++ [.finished] } }) ∧
    (∀ b p, Config.prngNext s.prng = (b, p) →
      exec (.randR x) s = .next { s.setDr x b with prng := p, pc := s.pc + 2 }) ∧
    (∃ p, exec (.seedR x) s = .next { s with prng := p, pc := s.pc + 2 }) ∧
    (∀ c r, s.host.clocks = c :: r → exec .time s = .next { s with
      d0 := c.seconds, d1 := c.minutes, d2 := c.hours, pc := s.pc + 1, host := { s.host with clocks := r } }) ∧
    (s.host.clocks = [] → ∃ c : ClockReading, exec .time s = .next { s with
      d0 := c.seconds, d1 := c.minutes, d2 := c.hours, pc := s.pc + 1
      host := { s.host with draws := s.host.draws + 1 } })

/-- The byte RAND gives after a SEED, and the generator after it, depend on the seed byte alone (47_input_misc.md
R279; the generator is a free value, log 6). -/
def Obligations.SeedFixesRandom : Prop :=
  ∀ (s s' : State) (x x' y y' : DataReg), s.dr x = s'.dr x' →
    ∃ t t' u u', exec (.seedR x) s = .next t ∧ exec (.seedR x') s' = .next t' ∧
      exec (.randR y) t = .next u ∧ exec (.randR y') t' = .next u' ∧ u.dr y = u'.dr y' ∧ u.prng = u'.prng

/-! ## The whole machine -/

/-- R29: an instruction writes no data register, address register, SP, FP or OV but those the writer table names for
it. -/
def Obligations.RegisterWriters : Prop :=
  ∀ (i : Instr) (s t : State), exec i s = .next t →
    (∀ r, r ∉ dataTargets i → t.dr r = s.dr r) ∧ (∀ a, a ∉ addrTargets i → t.ar a = s.ar a) ∧
    (writesSp i = false → t.sp = s.sp) ∧ (writesFp i = false → t.fp = s.fp) ∧ (writesOv i = false → t.ov = s.ov)

/-- A trap leaves every register, MEM, the handle table, the generator and PC as they were and, but for IoBroken, the
host with no more than the crash report; IoBroken is raised by output instructions in direct mode only
(60_exceptions.md R301, R304; logs 10, 15). -/
def Obligations.TrapsArePrecise : Prop :=
  ∀ (i : Instr) (s t : State) (k : TrapKind), s.status = .running → exec i s = .next t → t.status = .crashed k →
    t = { s with status := .crashed k, proto := t.proto, host := t.host } ∧ (k ≠ .ioBroken → t = s.takeTrap k) ∧
    (k = .ioBroken → s.mode = .direct ∧ sendsOutput i = true)

/-- Trap entry: status Crashed(K); in direct mode the tag, a line feed and the rendered dump go to a stderr that takes
them; in piped mode the port enters Crashed and emits `c` (60_exceptions.md R303, R305; the texts are free values, log
11; how much stderr takes, log 10). -/
def Obligations.TrapEntry : Prop :=
  ∀ (s : State) (k : TrapKind),
    (s.mode = .direct →
      let report := Config.crashTag k.code ++ 0x0A :: Config.dumpText s.dump
      s.host.stderr.Takes report.length →
        (s.takeTrap k).host.stderr.taken = s.host.stderr.taken ++ report ∧
        s.takeTrap k = { s with
          status := .crashed k, host := { s.host with stderr := (s.takeTrap k).host.stderr } }) ∧
    (s.mode = .piped → s.host.sentLeft = none →
      s.takeTrap k = { s with
        status := .crashed k, proto := .crashed, host := { s.host with sent := s.host.sent ++ [.crashed] } })

/-- Every instruction answers a next state in every state: none faults and none is refused (00_scope.md R10,
60_exceptions.md R302). -/
def Obligations.ExecAlwaysAnswers : Prop :=
  ∀ (i : Instr) (s : State), ∃ t, exec i s = .next t

/-- Every step keeps the invariant of a run: MEM canonical, regions that fit, breakpoints a set, the port's protocol
state in step with the status, no running core of piped mode at the end of OPS, a wait that can be ended, only files of
the host opened, parameters a device can have (logs 1, 4, 14, 16, 19 for the model's forms). -/
def Obligations.StepKeepsInvariant : Prop :=
  ∀ (s t : State), s.Inv → step s = .next t → t.Inv

/-- The invariant holds at reset and after boot with any image a tape file can hold. -/
def Obligations.InvariantHoldsAfterBoot : Prop :=
  State.reset.Inv ∧ ∀ (p : Params) (m : RunMode) (h : HostSide) (i : Image),
    p.wellFormed = true → i.wellFormed = true → (boot p m h i).Inv

/-- No step changes OPS, STR or DATA: the image is immutable after load (10_state.md R32, 20_memory.md R68). That no
step changes the run mode (70_reset_and_hazards.md R356, R357) or the parameters either is the model's (logs 3, 1). -/
def Obligations.ImageIsImmutable : Prop :=
  ∀ (s t : State), step s = .next t →
    t.ops = s.ops ∧ t.str = s.str ∧ t.data = s.data ∧ t.mode = s.mode ∧ t.params = s.params

/-- Once a run has ended no instruction runs: in direct mode there is no next step, in piped mode a step changes
breakpoints, the input buffers and the host's side alone; its exit code is 0 where it halted and nonzero where it did
not, and a run that has not ended has none (60_exceptions.md R306, R327; 70_reset_and_hazards.md R365; the fault is
the model's, log 2; the nonzero codes are free values, log 21). -/
def Obligations.EndedRunsRunNothing : Prop :=
  ∀ (s : State),
    (s.status.ended = true →
      (s.mode = .direct → step s = .fault .runEnded) ∧
      (∀ t, step s = .next t → t = { s with
        breakpoints := t.breakpoints, keybuf := t.keybuf, strbuf := t.strbuf, host := t.host }) ∧
      ∃ n, exitCode s.status = some n ∧ (n = 0 ↔ ∃ r, s.status = .halted r)) ∧
    (s.status.ended = false → exitCode s.status = none)

/-- The debug port's frames (60_exceptions.md R319, R322): a step of an open session handles the frame it reads; `b`
and `c` add and remove a breakpoint and are idempotent; an `e` at a breakpoint reports it and runs nothing; `e` and
`f` outside Idle are ignored; a `k` outside AwaitingKey and a `t` outside AwaitingString are appended to their
buffers, from whose fronts RCHR and RSTR take. -/
def Obligations.BreakpointsStopSteps : Prop :=
  ∀ (s : State) (pc : Word),
    (∀ f r, s.mode = .piped → s.host.sessionClosed = false → (s.status.ended = true ∨ s.host.cancelPending = false) →
      parseFrame s.host.inbox = .frame f r →
        step s = handleFrame f { s with host := { s.host with inbox := r } }) ∧
    (∃ t, handleFrame (.setBreakpoint pc) s = .next t ∧ (∀ q, q ∈ t.breakpoints ↔ q = pc ∨ q ∈ s.breakpoints) ∧
      t = { s with breakpoints := t.breakpoints } ∧ handleFrame (.setBreakpoint pc) t = .next t) ∧
    (∃ t, handleFrame (.clearBreakpoint pc) s = .next t ∧
      (∀ q, q ∈ t.breakpoints ↔ q ≠ pc ∧ q ∈ s.breakpoints) ∧
      t = { s with breakpoints := t.breakpoints } ∧ handleFrame (.clearBreakpoint pc) t = .next t) ∧
    (s.proto = .idle → s.status = .running → s.pc ∈ s.breakpoints → s.host.sentLeft = none →
      handleFrame .step s = .next { s with host := { s.host with sent := s.host.sent ++ [.breakpoint s.pc] } }) ∧
    (s.proto ≠ .idle → handleFrame .step s = .next s ∧ handleFrame .stepIgnoring s = .next s) ∧
    (s.proto ≠ .awaitingKey → ∀ b, handleFrame (.key b) s = .next { s with keybuf := s.keybuf ++ [b] }) ∧
    (s.proto ≠ .awaitingString → ∀ l, handleFrame (.string l) s = .next { s with strbuf := s.strbuf ++ [l] })

/-- A dump request emits the dump of the current state and changes nothing else. R323: a memory request answers
MEM[lo..=hi], hi - lo + 1 bytes in ascending order, in frames of at most 255 bytes, and changes nothing of the core.
-/
def Obligations.MemoryRequestReplies : Prop :=
  (∀ (s : State) (lo hi : Word), lo.toNat ≤ hi.toNat → hi.toNat ≤ 0xFFFE → s.host.sentLeft = none →
    ∃ parts : List (List Byte),
      handleFrame (.requestMemory lo hi) s = .next { s with
        host := { s.host with sent := s.host.sent ++ parts.map .memory } } ∧
      (∀ p ∈ parts, 1 ≤ p.length ∧ p.length ≤ 255) ∧ parts.flatten.length = hi.toNat - lo.toNat + 1 ∧
      ∀ k, k < hi.toNat - lo.toNat + 1 → parts.flatten[k]? = some (s.byte (lo.toNat + k))) ∧
  ∀ (s : State), s.host.sentLeft = none →
    let half (w : Word) : List Byte := [BitVec.ofNat 8 (w.toNat / 256), BitVec.ofNat 8 (w.toNat % 256)]
    handleFrame .requestDump s = .next { s with host := { s.host with
      sent := s.host.sent ++ [.dump (half s.pc ++ half s.a0 ++ half s.a1 ++ half s.sp ++ half s.fp ++
        [s.acc, s.d0, s.d1, s.d2, s.d3, if s.ov then 1 else 0])] } }

/-- A run in progress is cancelled at a boundary by a pending cancellation, and in piped mode by an unknown frame, a
bad memory request, a frame cut off by the end of the stream, or a closed session (60_exceptions.md R308, R320; logs
12, 13; that a pending cancellation comes before the end-of-ops check is the model's choice, log 22). -/
def Obligations.ProtocolErrorsAndCancellation : Prop :=
  ∀ (s : State), s.status.ended = false →
    (s.host.cancelPending = true →
      step s = .next { s with status := .cancelled, host := { s.host with cancelPending := false } }) ∧
    (s.host.cancelPending = false → s.mode = .piped → s.host.sessionClosed = true →
      ∃ t, step s = .next t ∧ t.status = .cancelled ∧ t = { s with status := .cancelled, host := t.host }) ∧
    (s.host.cancelPending = false → s.mode = .piped → s.host.sessionClosed = false →
      (parseFrame s.host.inbox = .unknown ∨ (parseFrame s.host.inbox = .incomplete ∧ s.host.inboxClosed = true) ∨
        ∃ lo hi r, parseFrame s.host.inbox = .frame (.requestMemory lo hi) r ∧
          (hi.toNat < lo.toNat ∨ 0xFFFE < hi.toNat)) →
      ∃ t, step s = .next t ∧ t.host.sessionClosed = true ∧ t = { s with status := .cancelled, host := t.host })

/-- With every MAGIC of three bytes, the loader accepts exactly the tape files of images and gives the image back;
bytes after one are an image error. Boot runs from the image of an accepted file and fails on any other, with a
nonzero exit code (70_reset_and_hazards.md R351, R352, R353, R365; 00_scope.md R6; the code is a free value, log 21).
-/
def Obligations.TapeFileRoundTrip : Prop :=
  (∀ (magic : List Byte), magic.length = 3 →
    (∀ (bs : List Byte) (i : Image),
      parseImage magic bs = .ok i ↔ i.wellFormed = true ∧ bs = tapeFile magic i) ∧
    ∀ (i : Image) (b : Byte) (bs : List Byte), i.wellFormed = true →
      parseImage magic (tapeFile magic i ++ b :: bs) = .error .trailing) ∧
  ∀ (p : Params) (m : RunMode) (h : HostSide) (bs : List Byte),
    (∀ i, parseImage p.magic bs = .ok i → bootFile p m h bs = .started (boot p m h i)) ∧
    ∀ e, parseImage p.magic bs = .error e →
      ∃ d n, bootFile p m h bs = .failed e d n ∧ (bootFile p m h bs).exitCode = some n ∧ n ≠ 0

/-- R350: the state after reset: every register, MEM, the handle table, the status and the debug port, with the
image's regions; the first dump. A piped run of an image without ops is not Running any more (60_exceptions.md R319).
-/
def Obligations.StateAfterReset : Prop :=
  ∀ (p : Params) (m : RunMode) (h : HostSide) (i : Image), (m = .piped → i.ops ≠ []) →
    let s := boot p m h i
    s.acc = 0 ∧ s.d0 = 0 ∧ s.d1 = 0 ∧ s.d2 = 0 ∧ s.d3 = 0 ∧ s.a0 = 0 ∧ s.a1 = 0 ∧ s.pc = 0 ∧ s.sp = 0xFFFF ∧
    s.fp = 0xFFFF ∧ s.ov = false ∧ (∀ a, s.byte a = 0) ∧ s.ops = i.ops ∧ s.str = i.strings ∧ s.data = i.data ∧
    (∀ f, (s.handle f).opened = false ∧ (s.handle f).cursor = 0) ∧ s.prng = Config.prngInit ∧ s.status = .running ∧
    s.proto = .idle ∧ s.breakpoints = [] ∧ s.keybuf = [] ∧ s.strbuf = [] ∧
    s.dump = [0, 0, 0, 0, 0, 0, 0xFF, 0xFF, 0xFF, 0xFF, 0, 0, 0, 0, 0, 0]
end

