-- ==== Sys2Proof/Laws/Encoding.lean ====
section
/-! SUPPORT. The small facts of the encoding: register codes, 16-bit values cut into bytes, and what an
opcode map does. -/
namespace Sys2Proof

@[simp] theorem dregOf_code (x : DataReg) : dregOf x.code = x := by cases x <;> rfl

@[simp] theorem aregOf_code (x : AddrReg) : aregOf x.code = x := by cases x <;> rfl

@[simp] theorem DataReg.code_le (x : DataReg) : x.code.toNat ≤ 4 := by cases x <;> decide

@[simp] theorem AddrReg.code_le (x : AddrReg) : x.code.toNat ≤ 1 := by cases x <;> decide

/-- A legal data-register code is the code of the register it names. -/
theorem code_dregOf (b : Byte) (h : b.toNat ≤ 4) : (dregOf b).code = b := by
  have : b.toNat = 0 ∨ b.toNat = 1 ∨ b.toNat = 2 ∨ b.toNat = 3 ∨ b.toNat = 4 := by omega
  rcases this with h | h | h | h | h <;>
    (simp only [dregOf, h, DataReg.code]; apply BitVec.eq_of_toNat_eq; simp [h])

/-- A legal address-register code is the code of the register it names. -/
theorem code_aregOf (b : Byte) (h : b.toNat ≤ 1) : (aregOf b).code = b := by
  have : b.toNat = 0 ∨ b.toNat = 1 := by omega
  rcases this with h | h <;> (simp only [aregOf, h, AddrReg.code]; apply BitVec.eq_of_toNat_eq; simp [h])

@[simp] theorem be16_toNat (h l : Byte) : (be16 h l).toNat = h.toNat * 256 + l.toNat := by
  simp [be16]; omega

theorem hiByte_toNat (v : Word) : (hiByte v).toNat = v.toNat / 256 := by
  simp [hiByte, Nat.shiftRight_eq_div_pow]; omega

theorem loByte_toNat (v : Word) : (loByte v).toNat = v.toNat % 256 := by
  simp [loByte]

/-- A 16-bit value is its two bytes joined. -/
@[simp] theorem be16_parts (v : Word) : be16 (hiByte v) (loByte v) = v := by
  apply BitVec.eq_of_toNat_eq
  rw [be16_toNat, hiByte_toNat, loByte_toNat]; omega

@[simp] theorem hiByte_be16 (h l : Byte) : hiByte (be16 h l) = h := by
  apply BitVec.eq_of_toNat_eq
  rw [hiByte_toNat, be16_toNat]; omega

@[simp] theorem loByte_be16 (h l : Byte) : loByte (be16 h l) = l := by
  apply BitVec.eq_of_toNat_eq
  rw [loByte_toNat, be16_toNat]; omega

/-- Which format the opcode map gives is the opcode byte's alone. -/
theorem opcodeRow_format (b c : Nat → Byte) (h : (b 0).toNat = (c 0).toNat) (r : Format × Instr)
    (e : opcodeRow b = some r) : ∃ i, opcodeRow c = some (r.1, i) := by
  unfold opcodeRow at e
  split at e
  all_goals first | (simp at e; done) | skip
  all_goals
    rename_i hop
    rw [hop] at h
    unfold opcodeRow
    rw [← h]
    obtain rfl := Option.some.inj e
    exact ⟨_, rfl⟩

/-! ### opcode maps -/

theorem OpcodeMap.wellFormed_iff (m : OpcodeMap) :
    OpcodeMap.wellFormed m = true ↔ m.map Prod.snd = tableOpcodes ∧ (m.map Prod.fst).Nodup := by
  simp [OpcodeMap.wellFormed]

theorem tableOpcodes_nodup : tableOpcodes.Nodup := by decide

theorem mem_tableOpcodes (c : Byte) : c ∈ tableOpcodes ↔ 1 ≤ c.toNat ∧ c.toNat ≤ Config.opcodeCount := by
  simp only [tableOpcodes, List.mem_map, List.mem_range, Config.opcodeCount]
  constructor
  · rintro ⟨k, h, rfl⟩; simp; omega
  · rintro ⟨h, h'⟩
    exact ⟨c.toNat - 1, by omega, BitVec.eq_of_toNat_eq (by simp; omega)⟩

/-- A pair of a map whose opcode bytes differ is what the lookup of its opcode byte finds. -/
theorem lookup_of_mem {m : OpcodeMap} {op c : Byte} (h : (m.map Prod.fst).Nodup) (hm : (op, c) ∈ m) :
    m.lookup op = some c := by
  induction m with
  | nil => simp at hm
  | cons p m ih =>
    obtain ⟨p1, p2⟩ := p
    simp only [List.map_cons, List.nodup_cons, List.mem_map, not_exists, not_and] at h
    rcases List.mem_cons.1 hm with e | e
    · cases e; simp
    · have : op ≠ p1 := fun q => h.1 _ e q
      simpa [List.lookup_cons, beq_eq_false_iff_ne.2 this] using ih h.2 e

theorem mem_of_lookup {m : OpcodeMap} {op c : Byte} (h : m.lookup op = some c) : (op, c) ∈ m := by
  induction m with
  | nil => simp at h
  | cons p m ih =>
    obtain ⟨p1, p2⟩ := p
    by_cases e : op = p1
    · subst e; simp at h; simp [h]
    · rw [List.lookup_cons, beq_eq_false_iff_ne.2 e] at h
      exact List.mem_cons_of_mem _ (ih h)

/-- Every byte of the table has a pair in a map, the one that `mappedOpcode` finds. -/
theorem mappedOpcode_mem {m : OpcodeMap} (h : OpcodeMap.wellFormed m = true) {c : Byte} (hc : c ∈ tableOpcodes) :
    (mappedOpcode m c, c) ∈ m := by
  obtain ⟨hs, -⟩ := (OpcodeMap.wellFormed_iff m).1 h
  obtain ⟨p, hp, rfl⟩ := List.mem_map.1 (hs ▸ hc)
  unfold mappedOpcode
  split
  · rename_i q hq
    have e : q.2 = p.2 := by simpa using List.find?_some hq
    exact e ▸ List.mem_of_find?_eq_some hq
  · rename_i hq
    exact absurd (List.find?_eq_none.1 hq p hp) (by simp)

/-- Reading the byte that a map gives a row gives the row's byte of the table. -/
theorem tableOpcode_mappedOpcode {m : OpcodeMap} (h : OpcodeMap.wellFormed m = true) {c : Byte}
    (hc : c ∈ tableOpcodes) : tableOpcode m (mappedOpcode m c) = c := by
  rw [tableOpcode, lookup_of_mem ((OpcodeMap.wellFormed_iff m).1 h).2 (mappedOpcode_mem h hc)]; rfl

/-- A byte that a map gives a row reads as that row's byte of the table. -/
theorem tableOpcode_mem {m : OpcodeMap} (h : OpcodeMap.wellFormed m = true) {op : Byte} (ho : op ∈ m.map Prod.fst) :
    (op, tableOpcode m op) ∈ m ∧ tableOpcode m op ∈ tableOpcodes := by
  obtain ⟨hs, hn⟩ := (OpcodeMap.wellFormed_iff m).1 h
  obtain ⟨p, hp, rfl⟩ := List.mem_map.1 ho
  have e : tableOpcode m p.1 = p.2 := by rw [tableOpcode, lookup_of_mem hn hp]; rfl
  rw [e]
  exact ⟨hp, hs ▸ List.mem_map_of_mem hp⟩

/-- A byte that a map gives no row reads as the unassigned 0x00. -/
theorem tableOpcode_of_not_mem {m : OpcodeMap} {op : Byte} (ho : op ∉ m.map Prod.fst) : tableOpcode m op = 0 := by
  unfold tableOpcode
  cases e : m.lookup op with
  | none => rfl
  | some c => exact absurd (List.mem_map_of_mem (f := Prod.fst) (mem_of_lookup e)) ho

/-- The byte that a map gives the row of an assigned byte is that byte. -/
theorem mappedOpcode_tableOpcode {m : OpcodeMap} (h : OpcodeMap.wellFormed m = true) {op : Byte}
    (ho : op ∈ m.map Prod.fst) : mappedOpcode m (tableOpcode m op) = op := by
  obtain ⟨hp, hc⟩ := tableOpcode_mem h ho
  have hs : (m.map Prod.snd).Nodup := ((OpcodeMap.wellFormed_iff m).1 h).1 ▸ tableOpcodes_nodup
  exact congrArg Prod.fst (List.inj_on_of_nodup_map hs (mappedOpcode_mem h hc) hp rfl)

theorem defaultOpcodeMap_wellFormed : OpcodeMap.wellFormed defaultOpcodeMap = true := by
  rw [OpcodeMap.wellFormed_iff]
  simp [defaultOpcodeMap, Function.comp_def, tableOpcodes_nodup]

theorem Params.standard_wellFormed : Params.standard.wellFormed = true := by
  simp [Params.wellFormed, Params.standard, defaultOpcodeMap_wellFormed, Config.magic]

end Sys2Proof
end

