-- ==== Sys2Proof/Laws/Memory.lean ====
section
/-! SUPPORT. MEM: read after write, and every memory operation keeps the canonical form. -/
namespace Sys2Proof.Machine

/-- The canonical form, in parts. -/
theorem Memory.wf_iff (m : Memory) : Memory.wf m = true ↔
    (m.map Prod.fst).Pairwise (· < ·) ∧ ∀ c ∈ m, c.1 < Config.memSize ∧ c.2 ≠ 0 := by
  simp [Memory.wf]

theorem Memory.read_insert (m : Memory) (a : Nat) (b : Byte) (h : ∀ c ∈ m, c.1 ≠ a) (x : Nat) :
    Memory.read (Memory.insert m a b) x = if x = a then b else Memory.read m x := by
  induction m with
  | nil =>
    simp only [Memory.insert, Memory.read]
    by_cases e : x = a
    · simp [e]
    · simp [e, Ne.symm e]
  | cons c r ih =>
    obtain ⟨k, v⟩ := c
    have hk : k ≠ a := h (k, v) (by simp)
    have ih := ih fun c hc => h c (by simp [hc])
    simp only [Memory.insert]
    split
    · simp only [Memory.read]
      by_cases e : x = a
      · simp [e]
      · simp [e, Ne.symm e]
    · simp only [Memory.read, ih]
      by_cases e : x = a
      · subst e; simp [hk]
      · simp [e]

theorem Memory.read_others (m : Memory) (a x : Nat) :
    Memory.read (List.filter (fun c => c.1 != a) m : Memory) x = if x = a then 0 else Memory.read m x := by
  induction m with
  | nil => simp [Memory.read]
  | cons c r ih =>
    obtain ⟨k, v⟩ := c
    by_cases e : k = a
    · subst e
      simp only [bne_self_eq_false, Bool.false_eq_true, not_false_eq_true, List.filter_cons_of_neg, ih, Memory.read]
      by_cases f : x = k
      · simp [f]
      · simp [f, Ne.symm f]
    · have : (k != a) = true := by simp [e]
      rw [List.filter_cons_of_pos (by exact this)]
      simp only [Memory.read, ih]
      by_cases f : x = a
      · subst f; simp [e]
      · simp [f]

/-- What a byte of MEM reads as after a write. -/
theorem Memory.read_write (m : Memory) (a : Nat) (b : Byte) (x : Nat) :
    Memory.read (Memory.write m a b) x = if x = a ∧ a < Config.memSize then b else Memory.read m x := by
  unfold Memory.write
  split
  · rename_i h
    simp only [h, and_true]
    split
    · subst_vars; rw [Memory.read_others]
    · rw [Memory.read_insert _ _ _ (by simp), Memory.read_others]
      split <;> rfl
  · simp_all

theorem Memory.mem_insert (m : Memory) (a : Nat) (b : Byte) (c : Host.Cell) :
    c ∈ Memory.insert m a b ↔ c = (a, b) ∨ c ∈ m := by
  induction m with
  | nil => simp [Memory.insert]
  | cons d r ih =>
    simp only [Memory.insert]
    split
    · simp
    · simp only [List.mem_cons, ih]; tauto

theorem Memory.insert_sorted (m : Memory) (a : Nat) (b : Byte) (h : ∀ c ∈ m, c.1 ≠ a)
    (hs : (m.map Prod.fst).Pairwise (· < ·)) : ((Memory.insert m a b).map Prod.fst).Pairwise (· < ·) := by
  induction m with
  | nil => simp [Memory.insert]
  | cons d r ih =>
    obtain ⟨k, v⟩ := d
    simp only [List.map_cons, List.pairwise_cons] at hs
    have hk : k ≠ a := h (k, v) (by simp)
    simp only [Memory.insert]
    split
    · rename_i lt
      simp only [List.map_cons, List.pairwise_cons, List.mem_cons, forall_eq_or_imp]
      exact ⟨⟨lt, fun x hx => lt.trans (hs.1 x hx)⟩, hs.1, hs.2⟩
    · simp only [List.map_cons, List.pairwise_cons]
      refine ⟨fun x hx => ?_, ih (fun c hc => h c (by simp [hc])) hs.2⟩
      obtain ⟨c, hc, rfl⟩ := List.mem_map.1 hx
      rcases (Memory.mem_insert r a b c).1 hc with rfl | hc
      · simp only; omega
      · exact hs.1 _ (List.mem_map.2 ⟨c, hc, rfl⟩)

/-- A write keeps the canonical form. -/
theorem Memory.write_wf (m : Memory) (a : Nat) (b : Byte) (h : Memory.wf m = true) :
    Memory.wf (Memory.write m a b) = true := by
  rw [Memory.wf_iff] at h
  unfold Memory.write
  split
  · have hs : ((List.filter (fun c => c.1 != a) m).map Prod.fst).Pairwise (· < ·) :=
      h.1.sublist (List.filter_sublist.map _)
    have hf : ∀ c ∈ List.filter (fun c => c.1 != a) m, c.1 < Config.memSize ∧ c.2 ≠ 0 := fun c hc =>
      h.2 c (List.mem_of_mem_filter hc)
    dsimp only
    split
    · exact (Memory.wf_iff _).2 ⟨hs, hf⟩
    · refine (Memory.wf_iff _).2 ⟨Memory.insert_sorted _ _ _ (by simp) hs, fun c hc => ?_⟩
      rcases (Memory.mem_insert _ _ _ _).1 hc with rfl | hc
      · exact ⟨‹_›, ‹_›⟩
      · exact hf c hc
  · exact (Memory.wf_iff _).2 h

/-- A block write keeps the canonical form. -/
theorem Memory.writeBytes_wf (m : Memory) (a : Nat) (bs : List Byte) (h : Memory.wf m = true) :
    Memory.wf (Memory.writeBytes m a bs) = true := by
  induction bs generalizing m a with
  | nil => exact h
  | cons b bs ih => exact ih _ _ (Memory.write_wf _ _ _ h)

/-- What a byte of MEM reads as after a block write that lies in MEM. -/
theorem Memory.read_writeBytes (m : Memory) (a : Nat) (bs : List Byte) (h : a + bs.length ≤ Config.memSize) (x : Nat) :
    Memory.read (Memory.writeBytes m a bs) x =
      if a ≤ x ∧ x < a + bs.length then bs.getD (x - a) 0 else Memory.read m x := by
  induction bs generalizing m a with
  | nil =>
    simp [Memory.writeBytes]
  | cons b bs ih =>
    simp only [List.length_cons] at h
    simp only [Memory.writeBytes, ih (Memory.write m a b) (a + 1) (by omega), List.length_cons, Memory.read_write]
    by_cases e : x = a
    · subst e
      have : x < Config.memSize := by omega
      simp [this]
    · by_cases f : a + 1 ≤ x ∧ x < a + 1 + bs.length
      · have g : a ≤ x ∧ x < a + (bs.length + 1) := by omega
        have : x - a = (x - (a + 1)) + 1 := by omega
        rw [if_pos f, if_pos g, this]; simp
      · have g : ¬ (a ≤ x ∧ x < a + (bs.length + 1)) := by omega
        rw [if_neg f, if_neg g]; simp [e]

@[simp] theorem Memory.readBytes_length (m : Memory) (a n : Nat) : (Memory.readBytes m a n).length = n := by
  simp [Memory.readBytes]

/-- A push stays in canonical memory. -/
theorem State.push8_wf (s : State) (v : Byte) (h : Memory.wf s.mem = true) : Memory.wf (s.push8 v).mem = true :=
  Memory.write_wf _ _ _ h

/-- A 16-bit push stays in canonical memory. -/
theorem State.push16_wf (s : State) (v : Word) (h : Memory.wf s.mem = true) : Memory.wf (s.push16 v).mem = true :=
  Memory.write_wf _ _ _ (Memory.write_wf _ _ _ h)

/-- The reset state's memory is in canonical form. -/
theorem reset_mem_wf : Memory.wf State.reset.mem = true := by decide

end Sys2Proof.Machine
end

