-- ==== Sys2Proof/Laws/State.lean ====
section
/-! SUPPORT. One lemma per field and state update: what each named update of the state leaves unchanged, and what it
sets. -/
namespace Sys2Proof.Machine

variable (s : State)


/-! ### setDr -/
@[simp] theorem State.setDr_a0 (r : DataReg) (v : Byte) : (s.setDr r v).a0 = s.a0 := by cases r <;> rfl
@[simp] theorem State.setDr_a1 (r : DataReg) (v : Byte) : (s.setDr r v).a1 = s.a1 := by cases r <;> rfl
@[simp] theorem State.setDr_pc (r : DataReg) (v : Byte) : (s.setDr r v).pc = s.pc := by cases r <;> rfl
@[simp] theorem State.setDr_sp (r : DataReg) (v : Byte) : (s.setDr r v).sp = s.sp := by cases r <;> rfl
@[simp] theorem State.setDr_fp (r : DataReg) (v : Byte) : (s.setDr r v).fp = s.fp := by cases r <;> rfl
@[simp] theorem State.setDr_ov (r : DataReg) (v : Byte) : (s.setDr r v).ov = s.ov := by cases r <;> rfl
@[simp] theorem State.setDr_mem (r : DataReg) (v : Byte) : (s.setDr r v).mem = s.mem := by cases r <;> rfl
@[simp] theorem State.setDr_ops (r : DataReg) (v : Byte) : (s.setDr r v).ops = s.ops := by cases r <;> rfl
@[simp] theorem State.setDr_str (r : DataReg) (v : Byte) : (s.setDr r v).str = s.str := by cases r <;> rfl
@[simp] theorem State.setDr_data (r : DataReg) (v : Byte) : (s.setDr r v).data = s.data := by cases r <;> rfl
@[simp] theorem State.setDr_handles (r : DataReg) (v : Byte) : (s.setDr r v).handles = s.handles := by cases r <;> rfl
@[simp] theorem State.setDr_prng (r : DataReg) (v : Byte) : (s.setDr r v).prng = s.prng := by cases r <;> rfl
@[simp] theorem State.setDr_status (r : DataReg) (v : Byte) : (s.setDr r v).status = s.status := by cases r <;> rfl
@[simp] theorem State.setDr_proto (r : DataReg) (v : Byte) : (s.setDr r v).proto = s.proto := by cases r <;> rfl
@[simp] theorem State.setDr_breakpoints (r : DataReg) (v : Byte) : (s.setDr r v).breakpoints = s.breakpoints := by cases r <;> rfl
@[simp] theorem State.setDr_keybuf (r : DataReg) (v : Byte) : (s.setDr r v).keybuf = s.keybuf := by cases r <;> rfl
@[simp] theorem State.setDr_strbuf (r : DataReg) (v : Byte) : (s.setDr r v).strbuf = s.strbuf := by cases r <;> rfl
@[simp] theorem State.setDr_mode (r : DataReg) (v : Byte) : (s.setDr r v).mode = s.mode := by cases r <;> rfl
@[simp] theorem State.setDr_params (r : DataReg) (v : Byte) : (s.setDr r v).params = s.params := by cases r <;> rfl
@[simp] theorem State.setDr_host (r : DataReg) (v : Byte) : (s.setDr r v).host = s.host := by cases r <;> rfl

/-! ### setAr -/
@[simp] theorem State.setAr_acc (r : AddrReg) (v : Word) : (s.setAr r v).acc = s.acc := by cases r <;> rfl
@[simp] theorem State.setAr_d0 (r : AddrReg) (v : Word) : (s.setAr r v).d0 = s.d0 := by cases r <;> rfl
@[simp] theorem State.setAr_d1 (r : AddrReg) (v : Word) : (s.setAr r v).d1 = s.d1 := by cases r <;> rfl
@[simp] theorem State.setAr_d2 (r : AddrReg) (v : Word) : (s.setAr r v).d2 = s.d2 := by cases r <;> rfl
@[simp] theorem State.setAr_d3 (r : AddrReg) (v : Word) : (s.setAr r v).d3 = s.d3 := by cases r <;> rfl
@[simp] theorem State.setAr_pc (r : AddrReg) (v : Word) : (s.setAr r v).pc = s.pc := by cases r <;> rfl
@[simp] theorem State.setAr_sp (r : AddrReg) (v : Word) : (s.setAr r v).sp = s.sp := by cases r <;> rfl
@[simp] theorem State.setAr_fp (r : AddrReg) (v : Word) : (s.setAr r v).fp = s.fp := by cases r <;> rfl
@[simp] theorem State.setAr_ov (r : AddrReg) (v : Word) : (s.setAr r v).ov = s.ov := by cases r <;> rfl
@[simp] theorem State.setAr_mem (r : AddrReg) (v : Word) : (s.setAr r v).mem = s.mem := by cases r <;> rfl
@[simp] theorem State.setAr_ops (r : AddrReg) (v : Word) : (s.setAr r v).ops = s.ops := by cases r <;> rfl
@[simp] theorem State.setAr_str (r : AddrReg) (v : Word) : (s.setAr r v).str = s.str := by cases r <;> rfl
@[simp] theorem State.setAr_data (r : AddrReg) (v : Word) : (s.setAr r v).data = s.data := by cases r <;> rfl
@[simp] theorem State.setAr_handles (r : AddrReg) (v : Word) : (s.setAr r v).handles = s.handles := by cases r <;> rfl
@[simp] theorem State.setAr_prng (r : AddrReg) (v : Word) : (s.setAr r v).prng = s.prng := by cases r <;> rfl
@[simp] theorem State.setAr_status (r : AddrReg) (v : Word) : (s.setAr r v).status = s.status := by cases r <;> rfl
@[simp] theorem State.setAr_proto (r : AddrReg) (v : Word) : (s.setAr r v).proto = s.proto := by cases r <;> rfl
@[simp] theorem State.setAr_breakpoints (r : AddrReg) (v : Word) : (s.setAr r v).breakpoints = s.breakpoints := by cases r <;> rfl
@[simp] theorem State.setAr_keybuf (r : AddrReg) (v : Word) : (s.setAr r v).keybuf = s.keybuf := by cases r <;> rfl
@[simp] theorem State.setAr_strbuf (r : AddrReg) (v : Word) : (s.setAr r v).strbuf = s.strbuf := by cases r <;> rfl
@[simp] theorem State.setAr_mode (r : AddrReg) (v : Word) : (s.setAr r v).mode = s.mode := by cases r <;> rfl
@[simp] theorem State.setAr_params (r : AddrReg) (v : Word) : (s.setAr r v).params = s.params := by cases r <;> rfl
@[simp] theorem State.setAr_host (r : AddrReg) (v : Word) : (s.setAr r v).host = s.host := by cases r <;> rfl

/-! ### advance -/
@[simp] theorem State.advance_acc (f : Format) : (s.advance f).acc = s.acc := rfl
@[simp] theorem State.advance_d0 (f : Format) : (s.advance f).d0 = s.d0 := rfl
@[simp] theorem State.advance_d1 (f : Format) : (s.advance f).d1 = s.d1 := rfl
@[simp] theorem State.advance_d2 (f : Format) : (s.advance f).d2 = s.d2 := rfl
@[simp] theorem State.advance_d3 (f : Format) : (s.advance f).d3 = s.d3 := rfl
@[simp] theorem State.advance_a0 (f : Format) : (s.advance f).a0 = s.a0 := rfl
@[simp] theorem State.advance_a1 (f : Format) : (s.advance f).a1 = s.a1 := rfl
@[simp] theorem State.advance_sp (f : Format) : (s.advance f).sp = s.sp := rfl
@[simp] theorem State.advance_fp (f : Format) : (s.advance f).fp = s.fp := rfl
@[simp] theorem State.advance_ov (f : Format) : (s.advance f).ov = s.ov := rfl
@[simp] theorem State.advance_mem (f : Format) : (s.advance f).mem = s.mem := rfl
@[simp] theorem State.advance_ops (f : Format) : (s.advance f).ops = s.ops := rfl
@[simp] theorem State.advance_str (f : Format) : (s.advance f).str = s.str := rfl
@[simp] theorem State.advance_data (f : Format) : (s.advance f).data = s.data := rfl
@[simp] theorem State.advance_handles (f : Format) : (s.advance f).handles = s.handles := rfl
@[simp] theorem State.advance_prng (f : Format) : (s.advance f).prng = s.prng := rfl
@[simp] theorem State.advance_status (f : Format) : (s.advance f).status = s.status := rfl
@[simp] theorem State.advance_proto (f : Format) : (s.advance f).proto = s.proto := rfl
@[simp] theorem State.advance_breakpoints (f : Format) : (s.advance f).breakpoints = s.breakpoints := rfl
@[simp] theorem State.advance_keybuf (f : Format) : (s.advance f).keybuf = s.keybuf := rfl
@[simp] theorem State.advance_strbuf (f : Format) : (s.advance f).strbuf = s.strbuf := rfl
@[simp] theorem State.advance_mode (f : Format) : (s.advance f).mode = s.mode := rfl
@[simp] theorem State.advance_params (f : Format) : (s.advance f).params = s.params := rfl
@[simp] theorem State.advance_host (f : Format) : (s.advance f).host = s.host := rfl

/-! ### branch -/
@[simp] theorem State.branch_acc (f : Format) (c : Bool) (a : Word) : (s.branch f c a).acc = s.acc := rfl
@[simp] theorem State.branch_d0 (f : Format) (c : Bool) (a : Word) : (s.branch f c a).d0 = s.d0 := rfl
@[simp] theorem State.branch_d1 (f : Format) (c : Bool) (a : Word) : (s.branch f c a).d1 = s.d1 := rfl
@[simp] theorem State.branch_d2 (f : Format) (c : Bool) (a : Word) : (s.branch f c a).d2 = s.d2 := rfl
@[simp] theorem State.branch_d3 (f : Format) (c : Bool) (a : Word) : (s.branch f c a).d3 = s.d3 := rfl
@[simp] theorem State.branch_a0 (f : Format) (c : Bool) (a : Word) : (s.branch f c a).a0 = s.a0 := rfl
@[simp] theorem State.branch_a1 (f : Format) (c : Bool) (a : Word) : (s.branch f c a).a1 = s.a1 := rfl
@[simp] theorem State.branch_sp (f : Format) (c : Bool) (a : Word) : (s.branch f c a).sp = s.sp := rfl
@[simp] theorem State.branch_fp (f : Format) (c : Bool) (a : Word) : (s.branch f c a).fp = s.fp := rfl
@[simp] theorem State.branch_ov (f : Format) (c : Bool) (a : Word) : (s.branch f c a).ov = s.ov := rfl
@[simp] theorem State.branch_mem (f : Format) (c : Bool) (a : Word) : (s.branch f c a).mem = s.mem := rfl
@[simp] theorem State.branch_ops (f : Format) (c : Bool) (a : Word) : (s.branch f c a).ops = s.ops := rfl
@[simp] theorem State.branch_str (f : Format) (c : Bool) (a : Word) : (s.branch f c a).str = s.str := rfl
@[simp] theorem State.branch_data (f : Format) (c : Bool) (a : Word) : (s.branch f c a).data = s.data := rfl
@[simp] theorem State.branch_handles (f : Format) (c : Bool) (a : Word) : (s.branch f c a).handles = s.handles := rfl
@[simp] theorem State.branch_prng (f : Format) (c : Bool) (a : Word) : (s.branch f c a).prng = s.prng := rfl
@[simp] theorem State.branch_status (f : Format) (c : Bool) (a : Word) : (s.branch f c a).status = s.status := rfl
@[simp] theorem State.branch_proto (f : Format) (c : Bool) (a : Word) : (s.branch f c a).proto = s.proto := rfl
@[simp] theorem State.branch_breakpoints (f : Format) (c : Bool) (a : Word) : (s.branch f c a).breakpoints = s.breakpoints := rfl
@[simp] theorem State.branch_keybuf (f : Format) (c : Bool) (a : Word) : (s.branch f c a).keybuf = s.keybuf := rfl
@[simp] theorem State.branch_strbuf (f : Format) (c : Bool) (a : Word) : (s.branch f c a).strbuf = s.strbuf := rfl
@[simp] theorem State.branch_mode (f : Format) (c : Bool) (a : Word) : (s.branch f c a).mode = s.mode := rfl
@[simp] theorem State.branch_params (f : Format) (c : Bool) (a : Word) : (s.branch f c a).params = s.params := rfl
@[simp] theorem State.branch_host (f : Format) (c : Bool) (a : Word) : (s.branch f c a).host = s.host := rfl

/-! ### aluWrite8 -/
@[simp] theorem State.aluWrite8_d0 (r : Int) : (s.aluWrite8 r).d0 = s.d0 := rfl
@[simp] theorem State.aluWrite8_d1 (r : Int) : (s.aluWrite8 r).d1 = s.d1 := rfl
@[simp] theorem State.aluWrite8_d2 (r : Int) : (s.aluWrite8 r).d2 = s.d2 := rfl
@[simp] theorem State.aluWrite8_d3 (r : Int) : (s.aluWrite8 r).d3 = s.d3 := rfl
@[simp] theorem State.aluWrite8_a0 (r : Int) : (s.aluWrite8 r).a0 = s.a0 := rfl
@[simp] theorem State.aluWrite8_a1 (r : Int) : (s.aluWrite8 r).a1 = s.a1 := rfl
@[simp] theorem State.aluWrite8_pc (r : Int) : (s.aluWrite8 r).pc = s.pc := rfl
@[simp] theorem State.aluWrite8_sp (r : Int) : (s.aluWrite8 r).sp = s.sp := rfl
@[simp] theorem State.aluWrite8_fp (r : Int) : (s.aluWrite8 r).fp = s.fp := rfl
@[simp] theorem State.aluWrite8_mem (r : Int) : (s.aluWrite8 r).mem = s.mem := rfl
@[simp] theorem State.aluWrite8_ops (r : Int) : (s.aluWrite8 r).ops = s.ops := rfl
@[simp] theorem State.aluWrite8_str (r : Int) : (s.aluWrite8 r).str = s.str := rfl
@[simp] theorem State.aluWrite8_data (r : Int) : (s.aluWrite8 r).data = s.data := rfl
@[simp] theorem State.aluWrite8_handles (r : Int) : (s.aluWrite8 r).handles = s.handles := rfl
@[simp] theorem State.aluWrite8_prng (r : Int) : (s.aluWrite8 r).prng = s.prng := rfl
@[simp] theorem State.aluWrite8_status (r : Int) : (s.aluWrite8 r).status = s.status := rfl
@[simp] theorem State.aluWrite8_proto (r : Int) : (s.aluWrite8 r).proto = s.proto := rfl
@[simp] theorem State.aluWrite8_breakpoints (r : Int) : (s.aluWrite8 r).breakpoints = s.breakpoints := rfl
@[simp] theorem State.aluWrite8_keybuf (r : Int) : (s.aluWrite8 r).keybuf = s.keybuf := rfl
@[simp] theorem State.aluWrite8_strbuf (r : Int) : (s.aluWrite8 r).strbuf = s.strbuf := rfl
@[simp] theorem State.aluWrite8_mode (r : Int) : (s.aluWrite8 r).mode = s.mode := rfl
@[simp] theorem State.aluWrite8_params (r : Int) : (s.aluWrite8 r).params = s.params := rfl
@[simp] theorem State.aluWrite8_host (r : Int) : (s.aluWrite8 r).host = s.host := rfl

/-! ### aluWrite16 -/
@[simp] theorem State.aluWrite16_acc (x : AddrReg) (r : Int) : (s.aluWrite16 x r).acc = s.acc := by cases x <;> rfl
@[simp] theorem State.aluWrite16_d0 (x : AddrReg) (r : Int) : (s.aluWrite16 x r).d0 = s.d0 := by cases x <;> rfl
@[simp] theorem State.aluWrite16_d1 (x : AddrReg) (r : Int) : (s.aluWrite16 x r).d1 = s.d1 := by cases x <;> rfl
@[simp] theorem State.aluWrite16_d2 (x : AddrReg) (r : Int) : (s.aluWrite16 x r).d2 = s.d2 := by cases x <;> rfl
@[simp] theorem State.aluWrite16_d3 (x : AddrReg) (r : Int) : (s.aluWrite16 x r).d3 = s.d3 := by cases x <;> rfl
@[simp] theorem State.aluWrite16_pc (x : AddrReg) (r : Int) : (s.aluWrite16 x r).pc = s.pc := by cases x <;> rfl
@[simp] theorem State.aluWrite16_sp (x : AddrReg) (r : Int) : (s.aluWrite16 x r).sp = s.sp := by cases x <;> rfl
@[simp] theorem State.aluWrite16_fp (x : AddrReg) (r : Int) : (s.aluWrite16 x r).fp = s.fp := by cases x <;> rfl
@[simp] theorem State.aluWrite16_mem (x : AddrReg) (r : Int) : (s.aluWrite16 x r).mem = s.mem := by cases x <;> rfl
@[simp] theorem State.aluWrite16_ops (x : AddrReg) (r : Int) : (s.aluWrite16 x r).ops = s.ops := by cases x <;> rfl
@[simp] theorem State.aluWrite16_str (x : AddrReg) (r : Int) : (s.aluWrite16 x r).str = s.str := by cases x <;> rfl
@[simp] theorem State.aluWrite16_data (x : AddrReg) (r : Int) : (s.aluWrite16 x r).data = s.data := by cases x <;> rfl
@[simp] theorem State.aluWrite16_handles (x : AddrReg) (r : Int) : (s.aluWrite16 x r).handles = s.handles := by cases x <;> rfl
@[simp] theorem State.aluWrite16_prng (x : AddrReg) (r : Int) : (s.aluWrite16 x r).prng = s.prng := by cases x <;> rfl
@[simp] theorem State.aluWrite16_status (x : AddrReg) (r : Int) : (s.aluWrite16 x r).status = s.status := by cases x <;> rfl
@[simp] theorem State.aluWrite16_proto (x : AddrReg) (r : Int) : (s.aluWrite16 x r).proto = s.proto := by cases x <;> rfl
@[simp] theorem State.aluWrite16_breakpoints (x : AddrReg) (r : Int) : (s.aluWrite16 x r).breakpoints = s.breakpoints := by cases x <;> rfl
@[simp] theorem State.aluWrite16_keybuf (x : AddrReg) (r : Int) : (s.aluWrite16 x r).keybuf = s.keybuf := by cases x <;> rfl
@[simp] theorem State.aluWrite16_strbuf (x : AddrReg) (r : Int) : (s.aluWrite16 x r).strbuf = s.strbuf := by cases x <;> rfl
@[simp] theorem State.aluWrite16_mode (x : AddrReg) (r : Int) : (s.aluWrite16 x r).mode = s.mode := by cases x <;> rfl
@[simp] theorem State.aluWrite16_params (x : AddrReg) (r : Int) : (s.aluWrite16 x r).params = s.params := by cases x <;> rfl
@[simp] theorem State.aluWrite16_host (x : AddrReg) (r : Int) : (s.aluWrite16 x r).host = s.host := by cases x <;> rfl

/-! ### push8 -/
@[simp] theorem State.push8_acc (v : Byte) : (s.push8 v).acc = s.acc := rfl
@[simp] theorem State.push8_d0 (v : Byte) : (s.push8 v).d0 = s.d0 := rfl
@[simp] theorem State.push8_d1 (v : Byte) : (s.push8 v).d1 = s.d1 := rfl
@[simp] theorem State.push8_d2 (v : Byte) : (s.push8 v).d2 = s.d2 := rfl
@[simp] theorem State.push8_d3 (v : Byte) : (s.push8 v).d3 = s.d3 := rfl
@[simp] theorem State.push8_a0 (v : Byte) : (s.push8 v).a0 = s.a0 := rfl
@[simp] theorem State.push8_a1 (v : Byte) : (s.push8 v).a1 = s.a1 := rfl
@[simp] theorem State.push8_pc (v : Byte) : (s.push8 v).pc = s.pc := rfl
@[simp] theorem State.push8_fp (v : Byte) : (s.push8 v).fp = s.fp := rfl
@[simp] theorem State.push8_ov (v : Byte) : (s.push8 v).ov = s.ov := rfl
@[simp] theorem State.push8_ops (v : Byte) : (s.push8 v).ops = s.ops := rfl
@[simp] theorem State.push8_str (v : Byte) : (s.push8 v).str = s.str := rfl
@[simp] theorem State.push8_data (v : Byte) : (s.push8 v).data = s.data := rfl
@[simp] theorem State.push8_handles (v : Byte) : (s.push8 v).handles = s.handles := rfl
@[simp] theorem State.push8_prng (v : Byte) : (s.push8 v).prng = s.prng := rfl
@[simp] theorem State.push8_status (v : Byte) : (s.push8 v).status = s.status := rfl
@[simp] theorem State.push8_proto (v : Byte) : (s.push8 v).proto = s.proto := rfl
@[simp] theorem State.push8_breakpoints (v : Byte) : (s.push8 v).breakpoints = s.breakpoints := rfl
@[simp] theorem State.push8_keybuf (v : Byte) : (s.push8 v).keybuf = s.keybuf := rfl
@[simp] theorem State.push8_strbuf (v : Byte) : (s.push8 v).strbuf = s.strbuf := rfl
@[simp] theorem State.push8_mode (v : Byte) : (s.push8 v).mode = s.mode := rfl
@[simp] theorem State.push8_params (v : Byte) : (s.push8 v).params = s.params := rfl
@[simp] theorem State.push8_host (v : Byte) : (s.push8 v).host = s.host := rfl

/-! ### push16 -/
@[simp] theorem State.push16_acc (v : Word) : (s.push16 v).acc = s.acc := rfl
@[simp] theorem State.push16_d0 (v : Word) : (s.push16 v).d0 = s.d0 := rfl
@[simp] theorem State.push16_d1 (v : Word) : (s.push16 v).d1 = s.d1 := rfl
@[simp] theorem State.push16_d2 (v : Word) : (s.push16 v).d2 = s.d2 := rfl
@[simp] theorem State.push16_d3 (v : Word) : (s.push16 v).d3 = s.d3 := rfl
@[simp] theorem State.push16_a0 (v : Word) : (s.push16 v).a0 = s.a0 := rfl
@[simp] theorem State.push16_a1 (v : Word) : (s.push16 v).a1 = s.a1 := rfl
@[simp] theorem State.push16_pc (v : Word) : (s.push16 v).pc = s.pc := rfl
@[simp] theorem State.push16_fp (v : Word) : (s.push16 v).fp = s.fp := rfl
@[simp] theorem State.push16_ov (v : Word) : (s.push16 v).ov = s.ov := rfl
@[simp] theorem State.push16_ops (v : Word) : (s.push16 v).ops = s.ops := rfl
@[simp] theorem State.push16_str (v : Word) : (s.push16 v).str = s.str := rfl
@[simp] theorem State.push16_data (v : Word) : (s.push16 v).data = s.data := rfl
@[simp] theorem State.push16_handles (v : Word) : (s.push16 v).handles = s.handles := rfl
@[simp] theorem State.push16_prng (v : Word) : (s.push16 v).prng = s.prng := rfl
@[simp] theorem State.push16_status (v : Word) : (s.push16 v).status = s.status := rfl
@[simp] theorem State.push16_proto (v : Word) : (s.push16 v).proto = s.proto := rfl
@[simp] theorem State.push16_breakpoints (v : Word) : (s.push16 v).breakpoints = s.breakpoints := rfl
@[simp] theorem State.push16_keybuf (v : Word) : (s.push16 v).keybuf = s.keybuf := rfl
@[simp] theorem State.push16_strbuf (v : Word) : (s.push16 v).strbuf = s.strbuf := rfl
@[simp] theorem State.push16_mode (v : Word) : (s.push16 v).mode = s.mode := rfl
@[simp] theorem State.push16_params (v : Word) : (s.push16 v).params = s.params := rfl
@[simp] theorem State.push16_host (v : Word) : (s.push16 v).host = s.host := rfl

/-! ### dropBytes -/
@[simp] theorem State.dropBytes_acc (n : Nat) : (s.dropBytes n).acc = s.acc := rfl
@[simp] theorem State.dropBytes_d0 (n : Nat) : (s.dropBytes n).d0 = s.d0 := rfl
@[simp] theorem State.dropBytes_d1 (n : Nat) : (s.dropBytes n).d1 = s.d1 := rfl
@[simp] theorem State.dropBytes_d2 (n : Nat) : (s.dropBytes n).d2 = s.d2 := rfl
@[simp] theorem State.dropBytes_d3 (n : Nat) : (s.dropBytes n).d3 = s.d3 := rfl
@[simp] theorem State.dropBytes_a0 (n : Nat) : (s.dropBytes n).a0 = s.a0 := rfl
@[simp] theorem State.dropBytes_a1 (n : Nat) : (s.dropBytes n).a1 = s.a1 := rfl
@[simp] theorem State.dropBytes_pc (n : Nat) : (s.dropBytes n).pc = s.pc := rfl
@[simp] theorem State.dropBytes_fp (n : Nat) : (s.dropBytes n).fp = s.fp := rfl
@[simp] theorem State.dropBytes_ov (n : Nat) : (s.dropBytes n).ov = s.ov := rfl
@[simp] theorem State.dropBytes_mem (n : Nat) : (s.dropBytes n).mem = s.mem := rfl
@[simp] theorem State.dropBytes_ops (n : Nat) : (s.dropBytes n).ops = s.ops := rfl
@[simp] theorem State.dropBytes_str (n : Nat) : (s.dropBytes n).str = s.str := rfl
@[simp] theorem State.dropBytes_data (n : Nat) : (s.dropBytes n).data = s.data := rfl
@[simp] theorem State.dropBytes_handles (n : Nat) : (s.dropBytes n).handles = s.handles := rfl
@[simp] theorem State.dropBytes_prng (n : Nat) : (s.dropBytes n).prng = s.prng := rfl
@[simp] theorem State.dropBytes_status (n : Nat) : (s.dropBytes n).status = s.status := rfl
@[simp] theorem State.dropBytes_proto (n : Nat) : (s.dropBytes n).proto = s.proto := rfl
@[simp] theorem State.dropBytes_breakpoints (n : Nat) : (s.dropBytes n).breakpoints = s.breakpoints := rfl
@[simp] theorem State.dropBytes_keybuf (n : Nat) : (s.dropBytes n).keybuf = s.keybuf := rfl
@[simp] theorem State.dropBytes_strbuf (n : Nat) : (s.dropBytes n).strbuf = s.strbuf := rfl
@[simp] theorem State.dropBytes_mode (n : Nat) : (s.dropBytes n).mode = s.mode := rfl
@[simp] theorem State.dropBytes_params (n : Nat) : (s.dropBytes n).params = s.params := rfl
@[simp] theorem State.dropBytes_host (n : Nat) : (s.dropBytes n).host = s.host := rfl

/-! ### setSize -/
@[simp] theorem State.setSize_acc (v : BitVec 32) : (s.setSize v).acc = s.acc := rfl
@[simp] theorem State.setSize_a0 (v : BitVec 32) : (s.setSize v).a0 = s.a0 := rfl
@[simp] theorem State.setSize_a1 (v : BitVec 32) : (s.setSize v).a1 = s.a1 := rfl
@[simp] theorem State.setSize_pc (v : BitVec 32) : (s.setSize v).pc = s.pc := rfl
@[simp] theorem State.setSize_sp (v : BitVec 32) : (s.setSize v).sp = s.sp := rfl
@[simp] theorem State.setSize_fp (v : BitVec 32) : (s.setSize v).fp = s.fp := rfl
@[simp] theorem State.setSize_ov (v : BitVec 32) : (s.setSize v).ov = s.ov := rfl
@[simp] theorem State.setSize_mem (v : BitVec 32) : (s.setSize v).mem = s.mem := rfl
@[simp] theorem State.setSize_ops (v : BitVec 32) : (s.setSize v).ops = s.ops := rfl
@[simp] theorem State.setSize_str (v : BitVec 32) : (s.setSize v).str = s.str := rfl
@[simp] theorem State.setSize_data (v : BitVec 32) : (s.setSize v).data = s.data := rfl
@[simp] theorem State.setSize_handles (v : BitVec 32) : (s.setSize v).handles = s.handles := rfl
@[simp] theorem State.setSize_prng (v : BitVec 32) : (s.setSize v).prng = s.prng := rfl
@[simp] theorem State.setSize_status (v : BitVec 32) : (s.setSize v).status = s.status := rfl
@[simp] theorem State.setSize_proto (v : BitVec 32) : (s.setSize v).proto = s.proto := rfl
@[simp] theorem State.setSize_breakpoints (v : BitVec 32) : (s.setSize v).breakpoints = s.breakpoints := rfl
@[simp] theorem State.setSize_keybuf (v : BitVec 32) : (s.setSize v).keybuf = s.keybuf := rfl
@[simp] theorem State.setSize_strbuf (v : BitVec 32) : (s.setSize v).strbuf = s.strbuf := rfl
@[simp] theorem State.setSize_mode (v : BitVec 32) : (s.setSize v).mode = s.mode := rfl
@[simp] theorem State.setSize_params (v : BitVec 32) : (s.setSize v).params = s.params := rfl
@[simp] theorem State.setSize_host (v : BitVec 32) : (s.setSize v).host = s.host := rfl

/-! ### setHandle -/
@[simp] theorem State.setHandle_acc (f : Byte) (x : FileHandle) : (s.setHandle f x).acc = s.acc := rfl
@[simp] theorem State.setHandle_d0 (f : Byte) (x : FileHandle) : (s.setHandle f x).d0 = s.d0 := rfl
@[simp] theorem State.setHandle_d1 (f : Byte) (x : FileHandle) : (s.setHandle f x).d1 = s.d1 := rfl
@[simp] theorem State.setHandle_d2 (f : Byte) (x : FileHandle) : (s.setHandle f x).d2 = s.d2 := rfl
@[simp] theorem State.setHandle_d3 (f : Byte) (x : FileHandle) : (s.setHandle f x).d3 = s.d3 := rfl
@[simp] theorem State.setHandle_a0 (f : Byte) (x : FileHandle) : (s.setHandle f x).a0 = s.a0 := rfl
@[simp] theorem State.setHandle_a1 (f : Byte) (x : FileHandle) : (s.setHandle f x).a1 = s.a1 := rfl
@[simp] theorem State.setHandle_pc (f : Byte) (x : FileHandle) : (s.setHandle f x).pc = s.pc := rfl
@[simp] theorem State.setHandle_sp (f : Byte) (x : FileHandle) : (s.setHandle f x).sp = s.sp := rfl
@[simp] theorem State.setHandle_fp (f : Byte) (x : FileHandle) : (s.setHandle f x).fp = s.fp := rfl
@[simp] theorem State.setHandle_ov (f : Byte) (x : FileHandle) : (s.setHandle f x).ov = s.ov := rfl
@[simp] theorem State.setHandle_mem (f : Byte) (x : FileHandle) : (s.setHandle f x).mem = s.mem := rfl
@[simp] theorem State.setHandle_ops (f : Byte) (x : FileHandle) : (s.setHandle f x).ops = s.ops := rfl
@[simp] theorem State.setHandle_str (f : Byte) (x : FileHandle) : (s.setHandle f x).str = s.str := rfl
@[simp] theorem State.setHandle_data (f : Byte) (x : FileHandle) : (s.setHandle f x).data = s.data := rfl
@[simp] theorem State.setHandle_prng (f : Byte) (x : FileHandle) : (s.setHandle f x).prng = s.prng := rfl
@[simp] theorem State.setHandle_status (f : Byte) (x : FileHandle) : (s.setHandle f x).status = s.status := rfl
@[simp] theorem State.setHandle_proto (f : Byte) (x : FileHandle) : (s.setHandle f x).proto = s.proto := rfl
@[simp] theorem State.setHandle_breakpoints (f : Byte) (x : FileHandle) : (s.setHandle f x).breakpoints = s.breakpoints := rfl
@[simp] theorem State.setHandle_keybuf (f : Byte) (x : FileHandle) : (s.setHandle f x).keybuf = s.keybuf := rfl
@[simp] theorem State.setHandle_strbuf (f : Byte) (x : FileHandle) : (s.setHandle f x).strbuf = s.strbuf := rfl
@[simp] theorem State.setHandle_mode (f : Byte) (x : FileHandle) : (s.setHandle f x).mode = s.mode := rfl
@[simp] theorem State.setHandle_params (f : Byte) (x : FileHandle) : (s.setHandle f x).params = s.params := rfl
@[simp] theorem State.setHandle_host (f : Byte) (x : FileHandle) : (s.setHandle f x).host = s.host := rfl

/-! ### bumpCursor -/
@[simp] theorem State.bumpCursor_acc (f : Byte) (k : Nat) : (s.bumpCursor f k).acc = s.acc := rfl
@[simp] theorem State.bumpCursor_d0 (f : Byte) (k : Nat) : (s.bumpCursor f k).d0 = s.d0 := rfl
@[simp] theorem State.bumpCursor_d1 (f : Byte) (k : Nat) : (s.bumpCursor f k).d1 = s.d1 := rfl
@[simp] theorem State.bumpCursor_d2 (f : Byte) (k : Nat) : (s.bumpCursor f k).d2 = s.d2 := rfl
@[simp] theorem State.bumpCursor_d3 (f : Byte) (k : Nat) : (s.bumpCursor f k).d3 = s.d3 := rfl
@[simp] theorem State.bumpCursor_a0 (f : Byte) (k : Nat) : (s.bumpCursor f k).a0 = s.a0 := rfl
@[simp] theorem State.bumpCursor_a1 (f : Byte) (k : Nat) : (s.bumpCursor f k).a1 = s.a1 := rfl
@[simp] theorem State.bumpCursor_pc (f : Byte) (k : Nat) : (s.bumpCursor f k).pc = s.pc := rfl
@[simp] theorem State.bumpCursor_sp (f : Byte) (k : Nat) : (s.bumpCursor f k).sp = s.sp := rfl
@[simp] theorem State.bumpCursor_fp (f : Byte) (k : Nat) : (s.bumpCursor f k).fp = s.fp := rfl
@[simp] theorem State.bumpCursor_ov (f : Byte) (k : Nat) : (s.bumpCursor f k).ov = s.ov := rfl
@[simp] theorem State.bumpCursor_mem (f : Byte) (k : Nat) : (s.bumpCursor f k).mem = s.mem := rfl
@[simp] theorem State.bumpCursor_ops (f : Byte) (k : Nat) : (s.bumpCursor f k).ops = s.ops := rfl
@[simp] theorem State.bumpCursor_str (f : Byte) (k : Nat) : (s.bumpCursor f k).str = s.str := rfl
@[simp] theorem State.bumpCursor_data (f : Byte) (k : Nat) : (s.bumpCursor f k).data = s.data := rfl
@[simp] theorem State.bumpCursor_prng (f : Byte) (k : Nat) : (s.bumpCursor f k).prng = s.prng := rfl
@[simp] theorem State.bumpCursor_status (f : Byte) (k : Nat) : (s.bumpCursor f k).status = s.status := rfl
@[simp] theorem State.bumpCursor_proto (f : Byte) (k : Nat) : (s.bumpCursor f k).proto = s.proto := rfl
@[simp] theorem State.bumpCursor_breakpoints (f : Byte) (k : Nat) : (s.bumpCursor f k).breakpoints = s.breakpoints := rfl
@[simp] theorem State.bumpCursor_keybuf (f : Byte) (k : Nat) : (s.bumpCursor f k).keybuf = s.keybuf := rfl
@[simp] theorem State.bumpCursor_strbuf (f : Byte) (k : Nat) : (s.bumpCursor f k).strbuf = s.strbuf := rfl
@[simp] theorem State.bumpCursor_mode (f : Byte) (k : Nat) : (s.bumpCursor f k).mode = s.mode := rfl
@[simp] theorem State.bumpCursor_params (f : Byte) (k : Nat) : (s.bumpCursor f k).params = s.params := rfl
@[simp] theorem State.bumpCursor_host (f : Byte) (k : Nat) : (s.bumpCursor f k).host = s.host := rfl

/-! ### storeLine -/
@[simp] theorem State.storeLine_d0 (a : Word) (l : List Byte) : (s.storeLine a l).d0 = s.d0 := rfl
@[simp] theorem State.storeLine_d1 (a : Word) (l : List Byte) : (s.storeLine a l).d1 = s.d1 := rfl
@[simp] theorem State.storeLine_d2 (a : Word) (l : List Byte) : (s.storeLine a l).d2 = s.d2 := rfl
@[simp] theorem State.storeLine_d3 (a : Word) (l : List Byte) : (s.storeLine a l).d3 = s.d3 := rfl
@[simp] theorem State.storeLine_a0 (a : Word) (l : List Byte) : (s.storeLine a l).a0 = s.a0 := rfl
@[simp] theorem State.storeLine_a1 (a : Word) (l : List Byte) : (s.storeLine a l).a1 = s.a1 := rfl
@[simp] theorem State.storeLine_pc (a : Word) (l : List Byte) : (s.storeLine a l).pc = s.pc := rfl
@[simp] theorem State.storeLine_sp (a : Word) (l : List Byte) : (s.storeLine a l).sp = s.sp := rfl
@[simp] theorem State.storeLine_fp (a : Word) (l : List Byte) : (s.storeLine a l).fp = s.fp := rfl
@[simp] theorem State.storeLine_ov (a : Word) (l : List Byte) : (s.storeLine a l).ov = s.ov := rfl
@[simp] theorem State.storeLine_ops (a : Word) (l : List Byte) : (s.storeLine a l).ops = s.ops := rfl
@[simp] theorem State.storeLine_str (a : Word) (l : List Byte) : (s.storeLine a l).str = s.str := rfl
@[simp] theorem State.storeLine_data (a : Word) (l : List Byte) : (s.storeLine a l).data = s.data := rfl
@[simp] theorem State.storeLine_handles (a : Word) (l : List Byte) : (s.storeLine a l).handles = s.handles := rfl
@[simp] theorem State.storeLine_prng (a : Word) (l : List Byte) : (s.storeLine a l).prng = s.prng := rfl
@[simp] theorem State.storeLine_status (a : Word) (l : List Byte) : (s.storeLine a l).status = s.status := rfl
@[simp] theorem State.storeLine_proto (a : Word) (l : List Byte) : (s.storeLine a l).proto = s.proto := rfl
@[simp] theorem State.storeLine_breakpoints (a : Word) (l : List Byte) : (s.storeLine a l).breakpoints = s.breakpoints := rfl
@[simp] theorem State.storeLine_keybuf (a : Word) (l : List Byte) : (s.storeLine a l).keybuf = s.keybuf := rfl
@[simp] theorem State.storeLine_strbuf (a : Word) (l : List Byte) : (s.storeLine a l).strbuf = s.strbuf := rfl
@[simp] theorem State.storeLine_mode (a : Word) (l : List Byte) : (s.storeLine a l).mode = s.mode := rfl
@[simp] theorem State.storeLine_params (a : Word) (l : List Byte) : (s.storeLine a l).params = s.params := rfl
@[simp] theorem State.storeLine_host (a : Word) (l : List Byte) : (s.storeLine a l).host = s.host := rfl

/-! ### resume -/
@[simp] theorem State.resume_acc (a : Word) : (s.resume a).acc = s.acc := rfl
@[simp] theorem State.resume_d0 (a : Word) : (s.resume a).d0 = s.d0 := rfl
@[simp] theorem State.resume_d1 (a : Word) : (s.resume a).d1 = s.d1 := rfl
@[simp] theorem State.resume_d2 (a : Word) : (s.resume a).d2 = s.d2 := rfl
@[simp] theorem State.resume_d3 (a : Word) : (s.resume a).d3 = s.d3 := rfl
@[simp] theorem State.resume_a0 (a : Word) : (s.resume a).a0 = s.a0 := rfl
@[simp] theorem State.resume_a1 (a : Word) : (s.resume a).a1 = s.a1 := rfl
@[simp] theorem State.resume_sp (a : Word) : (s.resume a).sp = s.sp := rfl
@[simp] theorem State.resume_fp (a : Word) : (s.resume a).fp = s.fp := rfl
@[simp] theorem State.resume_ov (a : Word) : (s.resume a).ov = s.ov := rfl
@[simp] theorem State.resume_mem (a : Word) : (s.resume a).mem = s.mem := rfl
@[simp] theorem State.resume_ops (a : Word) : (s.resume a).ops = s.ops := rfl
@[simp] theorem State.resume_str (a : Word) : (s.resume a).str = s.str := rfl
@[simp] theorem State.resume_data (a : Word) : (s.resume a).data = s.data := rfl
@[simp] theorem State.resume_handles (a : Word) : (s.resume a).handles = s.handles := rfl
@[simp] theorem State.resume_prng (a : Word) : (s.resume a).prng = s.prng := rfl
@[simp] theorem State.resume_breakpoints (a : Word) : (s.resume a).breakpoints = s.breakpoints := rfl
@[simp] theorem State.resume_keybuf (a : Word) : (s.resume a).keybuf = s.keybuf := rfl
@[simp] theorem State.resume_strbuf (a : Word) : (s.resume a).strbuf = s.strbuf := rfl
@[simp] theorem State.resume_mode (a : Word) : (s.resume a).mode = s.mode := rfl
@[simp] theorem State.resume_params (a : Word) : (s.resume a).params = s.params := rfl
@[simp] theorem State.resume_host (a : Word) : (s.resume a).host = s.host := rfl

/-! ### cancel -/
@[simp] theorem State.cancel_acc : (s.cancel).acc = s.acc := rfl
@[simp] theorem State.cancel_d0 : (s.cancel).d0 = s.d0 := rfl
@[simp] theorem State.cancel_d1 : (s.cancel).d1 = s.d1 := rfl
@[simp] theorem State.cancel_d2 : (s.cancel).d2 = s.d2 := rfl
@[simp] theorem State.cancel_d3 : (s.cancel).d3 = s.d3 := rfl
@[simp] theorem State.cancel_a0 : (s.cancel).a0 = s.a0 := rfl
@[simp] theorem State.cancel_a1 : (s.cancel).a1 = s.a1 := rfl
@[simp] theorem State.cancel_pc : (s.cancel).pc = s.pc := rfl
@[simp] theorem State.cancel_sp : (s.cancel).sp = s.sp := rfl
@[simp] theorem State.cancel_fp : (s.cancel).fp = s.fp := rfl
@[simp] theorem State.cancel_ov : (s.cancel).ov = s.ov := rfl
@[simp] theorem State.cancel_mem : (s.cancel).mem = s.mem := rfl
@[simp] theorem State.cancel_ops : (s.cancel).ops = s.ops := rfl
@[simp] theorem State.cancel_str : (s.cancel).str = s.str := rfl
@[simp] theorem State.cancel_data : (s.cancel).data = s.data := rfl
@[simp] theorem State.cancel_handles : (s.cancel).handles = s.handles := rfl
@[simp] theorem State.cancel_prng : (s.cancel).prng = s.prng := rfl
@[simp] theorem State.cancel_proto : (s.cancel).proto = s.proto := rfl
@[simp] theorem State.cancel_breakpoints : (s.cancel).breakpoints = s.breakpoints := rfl
@[simp] theorem State.cancel_keybuf : (s.cancel).keybuf = s.keybuf := rfl
@[simp] theorem State.cancel_strbuf : (s.cancel).strbuf = s.strbuf := rfl
@[simp] theorem State.cancel_mode : (s.cancel).mode = s.mode := rfl
@[simp] theorem State.cancel_params : (s.cancel).params = s.params := rfl

/-! ### closeSession -/
@[simp] theorem State.closeSession_acc : (s.closeSession).acc = s.acc := rfl
@[simp] theorem State.closeSession_d0 : (s.closeSession).d0 = s.d0 := rfl
@[simp] theorem State.closeSession_d1 : (s.closeSession).d1 = s.d1 := rfl
@[simp] theorem State.closeSession_d2 : (s.closeSession).d2 = s.d2 := rfl
@[simp] theorem State.closeSession_d3 : (s.closeSession).d3 = s.d3 := rfl
@[simp] theorem State.closeSession_a0 : (s.closeSession).a0 = s.a0 := rfl
@[simp] theorem State.closeSession_a1 : (s.closeSession).a1 = s.a1 := rfl
@[simp] theorem State.closeSession_pc : (s.closeSession).pc = s.pc := rfl
@[simp] theorem State.closeSession_sp : (s.closeSession).sp = s.sp := rfl
@[simp] theorem State.closeSession_fp : (s.closeSession).fp = s.fp := rfl
@[simp] theorem State.closeSession_ov : (s.closeSession).ov = s.ov := rfl
@[simp] theorem State.closeSession_mem : (s.closeSession).mem = s.mem := rfl
@[simp] theorem State.closeSession_ops : (s.closeSession).ops = s.ops := rfl
@[simp] theorem State.closeSession_str : (s.closeSession).str = s.str := rfl
@[simp] theorem State.closeSession_data : (s.closeSession).data = s.data := rfl
@[simp] theorem State.closeSession_handles : (s.closeSession).handles = s.handles := rfl
@[simp] theorem State.closeSession_prng : (s.closeSession).prng = s.prng := rfl
@[simp] theorem State.closeSession_proto : (s.closeSession).proto = s.proto := rfl
@[simp] theorem State.closeSession_breakpoints : (s.closeSession).breakpoints = s.breakpoints := rfl
@[simp] theorem State.closeSession_keybuf : (s.closeSession).keybuf = s.keybuf := rfl
@[simp] theorem State.closeSession_strbuf : (s.closeSession).strbuf = s.strbuf := rfl
@[simp] theorem State.closeSession_mode : (s.closeSession).mode = s.mode := rfl
@[simp] theorem State.closeSession_params : (s.closeSession).params = s.params := rfl

/-! ### emit -/
@[simp] theorem State.emit_acc (f : DeviceFrame) : (s.emit f).acc = s.acc := by unfold State.emit; split <;> rfl
@[simp] theorem State.emit_d0 (f : DeviceFrame) : (s.emit f).d0 = s.d0 := by unfold State.emit; split <;> rfl
@[simp] theorem State.emit_d1 (f : DeviceFrame) : (s.emit f).d1 = s.d1 := by unfold State.emit; split <;> rfl
@[simp] theorem State.emit_d2 (f : DeviceFrame) : (s.emit f).d2 = s.d2 := by unfold State.emit; split <;> rfl
@[simp] theorem State.emit_d3 (f : DeviceFrame) : (s.emit f).d3 = s.d3 := by unfold State.emit; split <;> rfl
@[simp] theorem State.emit_a0 (f : DeviceFrame) : (s.emit f).a0 = s.a0 := by unfold State.emit; split <;> rfl
@[simp] theorem State.emit_a1 (f : DeviceFrame) : (s.emit f).a1 = s.a1 := by unfold State.emit; split <;> rfl
@[simp] theorem State.emit_pc (f : DeviceFrame) : (s.emit f).pc = s.pc := by unfold State.emit; split <;> rfl
@[simp] theorem State.emit_sp (f : DeviceFrame) : (s.emit f).sp = s.sp := by unfold State.emit; split <;> rfl
@[simp] theorem State.emit_fp (f : DeviceFrame) : (s.emit f).fp = s.fp := by unfold State.emit; split <;> rfl
@[simp] theorem State.emit_ov (f : DeviceFrame) : (s.emit f).ov = s.ov := by unfold State.emit; split <;> rfl
@[simp] theorem State.emit_mem (f : DeviceFrame) : (s.emit f).mem = s.mem := by unfold State.emit; split <;> rfl
@[simp] theorem State.emit_ops (f : DeviceFrame) : (s.emit f).ops = s.ops := by unfold State.emit; split <;> rfl
@[simp] theorem State.emit_str (f : DeviceFrame) : (s.emit f).str = s.str := by unfold State.emit; split <;> rfl
@[simp] theorem State.emit_data (f : DeviceFrame) : (s.emit f).data = s.data := by unfold State.emit; split <;> rfl
@[simp] theorem State.emit_handles (f : DeviceFrame) : (s.emit f).handles = s.handles := by unfold State.emit; split <;> rfl
@[simp] theorem State.emit_prng (f : DeviceFrame) : (s.emit f).prng = s.prng := by unfold State.emit; split <;> rfl
@[simp] theorem State.emit_status (f : DeviceFrame) : (s.emit f).status = s.status := by unfold State.emit; split <;> rfl
@[simp] theorem State.emit_proto (f : DeviceFrame) : (s.emit f).proto = s.proto := by unfold State.emit; split <;> rfl
@[simp] theorem State.emit_breakpoints (f : DeviceFrame) : (s.emit f).breakpoints = s.breakpoints := by unfold State.emit; split <;> rfl
@[simp] theorem State.emit_keybuf (f : DeviceFrame) : (s.emit f).keybuf = s.keybuf := by unfold State.emit; split <;> rfl
@[simp] theorem State.emit_strbuf (f : DeviceFrame) : (s.emit f).strbuf = s.strbuf := by unfold State.emit; split <;> rfl
@[simp] theorem State.emit_mode (f : DeviceFrame) : (s.emit f).mode = s.mode := by unfold State.emit; split <;> rfl
@[simp] theorem State.emit_params (f : DeviceFrame) : (s.emit f).params = s.params := by unfold State.emit; split <;> rfl

/-! ### takeTrap -/
@[simp] theorem State.takeTrap_acc (k : TrapKind) : (s.takeTrap k).acc = s.acc := by unfold State.takeTrap; split <;> simp
@[simp] theorem State.takeTrap_d0 (k : TrapKind) : (s.takeTrap k).d0 = s.d0 := by unfold State.takeTrap; split <;> simp
@[simp] theorem State.takeTrap_d1 (k : TrapKind) : (s.takeTrap k).d1 = s.d1 := by unfold State.takeTrap; split <;> simp
@[simp] theorem State.takeTrap_d2 (k : TrapKind) : (s.takeTrap k).d2 = s.d2 := by unfold State.takeTrap; split <;> simp
@[simp] theorem State.takeTrap_d3 (k : TrapKind) : (s.takeTrap k).d3 = s.d3 := by unfold State.takeTrap; split <;> simp
@[simp] theorem State.takeTrap_a0 (k : TrapKind) : (s.takeTrap k).a0 = s.a0 := by unfold State.takeTrap; split <;> simp
@[simp] theorem State.takeTrap_a1 (k : TrapKind) : (s.takeTrap k).a1 = s.a1 := by unfold State.takeTrap; split <;> simp
@[simp] theorem State.takeTrap_pc (k : TrapKind) : (s.takeTrap k).pc = s.pc := by unfold State.takeTrap; split <;> simp
@[simp] theorem State.takeTrap_sp (k : TrapKind) : (s.takeTrap k).sp = s.sp := by unfold State.takeTrap; split <;> simp
@[simp] theorem State.takeTrap_fp (k : TrapKind) : (s.takeTrap k).fp = s.fp := by unfold State.takeTrap; split <;> simp
@[simp] theorem State.takeTrap_ov (k : TrapKind) : (s.takeTrap k).ov = s.ov := by unfold State.takeTrap; split <;> simp
@[simp] theorem State.takeTrap_mem (k : TrapKind) : (s.takeTrap k).mem = s.mem := by unfold State.takeTrap; split <;> simp
@[simp] theorem State.takeTrap_ops (k : TrapKind) : (s.takeTrap k).ops = s.ops := by unfold State.takeTrap; split <;> simp
@[simp] theorem State.takeTrap_str (k : TrapKind) : (s.takeTrap k).str = s.str := by unfold State.takeTrap; split <;> simp
@[simp] theorem State.takeTrap_data (k : TrapKind) : (s.takeTrap k).data = s.data := by unfold State.takeTrap; split <;> simp
@[simp] theorem State.takeTrap_handles (k : TrapKind) : (s.takeTrap k).handles = s.handles := by unfold State.takeTrap; split <;> simp
@[simp] theorem State.takeTrap_prng (k : TrapKind) : (s.takeTrap k).prng = s.prng := by unfold State.takeTrap; split <;> simp
@[simp] theorem State.takeTrap_breakpoints (k : TrapKind) : (s.takeTrap k).breakpoints = s.breakpoints := by unfold State.takeTrap; split <;> simp
@[simp] theorem State.takeTrap_keybuf (k : TrapKind) : (s.takeTrap k).keybuf = s.keybuf := by unfold State.takeTrap; split <;> simp
@[simp] theorem State.takeTrap_strbuf (k : TrapKind) : (s.takeTrap k).strbuf = s.strbuf := by unfold State.takeTrap; split <;> simp
@[simp] theorem State.takeTrap_mode (k : TrapKind) : (s.takeTrap k).mode = s.mode := by unfold State.takeTrap; split <;> simp
@[simp] theorem State.takeTrap_params (k : TrapKind) : (s.takeTrap k).params = s.params := by unfold State.takeTrap; split <;> simp

/-! ### halt -/
@[simp] theorem State.halt_acc (r : HaltReason) : (s.halt r).acc = s.acc := by unfold State.halt; split <;> simp
@[simp] theorem State.halt_d0 (r : HaltReason) : (s.halt r).d0 = s.d0 := by unfold State.halt; split <;> simp
@[simp] theorem State.halt_d1 (r : HaltReason) : (s.halt r).d1 = s.d1 := by unfold State.halt; split <;> simp
@[simp] theorem State.halt_d2 (r : HaltReason) : (s.halt r).d2 = s.d2 := by unfold State.halt; split <;> simp
@[simp] theorem State.halt_d3 (r : HaltReason) : (s.halt r).d3 = s.d3 := by unfold State.halt; split <;> simp
@[simp] theorem State.halt_a0 (r : HaltReason) : (s.halt r).a0 = s.a0 := by unfold State.halt; split <;> simp
@[simp] theorem State.halt_a1 (r : HaltReason) : (s.halt r).a1 = s.a1 := by unfold State.halt; split <;> simp
@[simp] theorem State.halt_pc (r : HaltReason) : (s.halt r).pc = s.pc := by unfold State.halt; split <;> simp
@[simp] theorem State.halt_sp (r : HaltReason) : (s.halt r).sp = s.sp := by unfold State.halt; split <;> simp
@[simp] theorem State.halt_fp (r : HaltReason) : (s.halt r).fp = s.fp := by unfold State.halt; split <;> simp
@[simp] theorem State.halt_ov (r : HaltReason) : (s.halt r).ov = s.ov := by unfold State.halt; split <;> simp
@[simp] theorem State.halt_mem (r : HaltReason) : (s.halt r).mem = s.mem := by unfold State.halt; split <;> simp
@[simp] theorem State.halt_ops (r : HaltReason) : (s.halt r).ops = s.ops := by unfold State.halt; split <;> simp
@[simp] theorem State.halt_str (r : HaltReason) : (s.halt r).str = s.str := by unfold State.halt; split <;> simp
@[simp] theorem State.halt_data (r : HaltReason) : (s.halt r).data = s.data := by unfold State.halt; split <;> simp
@[simp] theorem State.halt_handles (r : HaltReason) : (s.halt r).handles = s.handles := by unfold State.halt; split <;> simp
@[simp] theorem State.halt_prng (r : HaltReason) : (s.halt r).prng = s.prng := by unfold State.halt; split <;> simp
@[simp] theorem State.halt_breakpoints (r : HaltReason) : (s.halt r).breakpoints = s.breakpoints := by unfold State.halt; split <;> simp
@[simp] theorem State.halt_keybuf (r : HaltReason) : (s.halt r).keybuf = s.keybuf := by unfold State.halt; split <;> simp
@[simp] theorem State.halt_strbuf (r : HaltReason) : (s.halt r).strbuf = s.strbuf := by unfold State.halt; split <;> simp
@[simp] theorem State.halt_mode (r : HaltReason) : (s.halt r).mode = s.mode := by unfold State.halt; split <;> simp
@[simp] theorem State.halt_params (r : HaltReason) : (s.halt r).params = s.params := by unfold State.halt; split <;> simp

/-! ### waitForKey -/
@[simp] theorem State.waitForKey_acc (x : DataReg) : (s.waitForKey x).acc = s.acc := by unfold State.waitForKey; dsimp only; split <;> simp
@[simp] theorem State.waitForKey_d0 (x : DataReg) : (s.waitForKey x).d0 = s.d0 := by unfold State.waitForKey; dsimp only; split <;> simp
@[simp] theorem State.waitForKey_d1 (x : DataReg) : (s.waitForKey x).d1 = s.d1 := by unfold State.waitForKey; dsimp only; split <;> simp
@[simp] theorem State.waitForKey_d2 (x : DataReg) : (s.waitForKey x).d2 = s.d2 := by unfold State.waitForKey; dsimp only; split <;> simp
@[simp] theorem State.waitForKey_d3 (x : DataReg) : (s.waitForKey x).d3 = s.d3 := by unfold State.waitForKey; dsimp only; split <;> simp
@[simp] theorem State.waitForKey_a0 (x : DataReg) : (s.waitForKey x).a0 = s.a0 := by unfold State.waitForKey; dsimp only; split <;> simp
@[simp] theorem State.waitForKey_a1 (x : DataReg) : (s.waitForKey x).a1 = s.a1 := by unfold State.waitForKey; dsimp only; split <;> simp
@[simp] theorem State.waitForKey_pc (x : DataReg) : (s.waitForKey x).pc = s.pc := by unfold State.waitForKey; dsimp only; split <;> simp
@[simp] theorem State.waitForKey_sp (x : DataReg) : (s.waitForKey x).sp = s.sp := by unfold State.waitForKey; dsimp only; split <;> simp
@[simp] theorem State.waitForKey_fp (x : DataReg) : (s.waitForKey x).fp = s.fp := by unfold State.waitForKey; dsimp only; split <;> simp
@[simp] theorem State.waitForKey_ov (x : DataReg) : (s.waitForKey x).ov = s.ov := by unfold State.waitForKey; dsimp only; split <;> simp
@[simp] theorem State.waitForKey_mem (x : DataReg) : (s.waitForKey x).mem = s.mem := by unfold State.waitForKey; dsimp only; split <;> simp
@[simp] theorem State.waitForKey_ops (x : DataReg) : (s.waitForKey x).ops = s.ops := by unfold State.waitForKey; dsimp only; split <;> simp
@[simp] theorem State.waitForKey_str (x : DataReg) : (s.waitForKey x).str = s.str := by unfold State.waitForKey; dsimp only; split <;> simp
@[simp] theorem State.waitForKey_data (x : DataReg) : (s.waitForKey x).data = s.data := by unfold State.waitForKey; dsimp only; split <;> simp
@[simp] theorem State.waitForKey_handles (x : DataReg) : (s.waitForKey x).handles = s.handles := by unfold State.waitForKey; dsimp only; split <;> simp
@[simp] theorem State.waitForKey_prng (x : DataReg) : (s.waitForKey x).prng = s.prng := by unfold State.waitForKey; dsimp only; split <;> simp
@[simp] theorem State.waitForKey_breakpoints (x : DataReg) : (s.waitForKey x).breakpoints = s.breakpoints := by unfold State.waitForKey; dsimp only; split <;> simp
@[simp] theorem State.waitForKey_keybuf (x : DataReg) : (s.waitForKey x).keybuf = s.keybuf := by unfold State.waitForKey; dsimp only; split <;> simp
@[simp] theorem State.waitForKey_strbuf (x : DataReg) : (s.waitForKey x).strbuf = s.strbuf := by unfold State.waitForKey; dsimp only; split <;> simp
@[simp] theorem State.waitForKey_mode (x : DataReg) : (s.waitForKey x).mode = s.mode := by unfold State.waitForKey; dsimp only; split <;> simp
@[simp] theorem State.waitForKey_params (x : DataReg) : (s.waitForKey x).params = s.params := by unfold State.waitForKey; dsimp only; split <;> simp

/-! ### waitForLine -/
@[simp] theorem State.waitForLine_acc (a : Word) (f : Format) : (s.waitForLine a f).acc = s.acc := by unfold State.waitForLine; dsimp only; split <;> simp
@[simp] theorem State.waitForLine_d0 (a : Word) (f : Format) : (s.waitForLine a f).d0 = s.d0 := by unfold State.waitForLine; dsimp only; split <;> simp
@[simp] theorem State.waitForLine_d1 (a : Word) (f : Format) : (s.waitForLine a f).d1 = s.d1 := by unfold State.waitForLine; dsimp only; split <;> simp
@[simp] theorem State.waitForLine_d2 (a : Word) (f : Format) : (s.waitForLine a f).d2 = s.d2 := by unfold State.waitForLine; dsimp only; split <;> simp
@[simp] theorem State.waitForLine_d3 (a : Word) (f : Format) : (s.waitForLine a f).d3 = s.d3 := by unfold State.waitForLine; dsimp only; split <;> simp
@[simp] theorem State.waitForLine_a0 (a : Word) (f : Format) : (s.waitForLine a f).a0 = s.a0 := by unfold State.waitForLine; dsimp only; split <;> simp
@[simp] theorem State.waitForLine_a1 (a : Word) (f : Format) : (s.waitForLine a f).a1 = s.a1 := by unfold State.waitForLine; dsimp only; split <;> simp
@[simp] theorem State.waitForLine_pc (a : Word) (f : Format) : (s.waitForLine a f).pc = s.pc := by unfold State.waitForLine; dsimp only; split <;> simp
@[simp] theorem State.waitForLine_sp (a : Word) (f : Format) : (s.waitForLine a f).sp = s.sp := by unfold State.waitForLine; dsimp only; split <;> simp
@[simp] theorem State.waitForLine_fp (a : Word) (f : Format) : (s.waitForLine a f).fp = s.fp := by unfold State.waitForLine; dsimp only; split <;> simp
@[simp] theorem State.waitForLine_ov (a : Word) (f : Format) : (s.waitForLine a f).ov = s.ov := by unfold State.waitForLine; dsimp only; split <;> simp
@[simp] theorem State.waitForLine_mem (a : Word) (f : Format) : (s.waitForLine a f).mem = s.mem := by unfold State.waitForLine; dsimp only; split <;> simp
@[simp] theorem State.waitForLine_ops (a : Word) (f : Format) : (s.waitForLine a f).ops = s.ops := by unfold State.waitForLine; dsimp only; split <;> simp
@[simp] theorem State.waitForLine_str (a : Word) (f : Format) : (s.waitForLine a f).str = s.str := by unfold State.waitForLine; dsimp only; split <;> simp
@[simp] theorem State.waitForLine_data (a : Word) (f : Format) : (s.waitForLine a f).data = s.data := by unfold State.waitForLine; dsimp only; split <;> simp
@[simp] theorem State.waitForLine_handles (a : Word) (f : Format) : (s.waitForLine a f).handles = s.handles := by unfold State.waitForLine; dsimp only; split <;> simp
@[simp] theorem State.waitForLine_prng (a : Word) (f : Format) : (s.waitForLine a f).prng = s.prng := by unfold State.waitForLine; dsimp only; split <;> simp
@[simp] theorem State.waitForLine_breakpoints (a : Word) (f : Format) : (s.waitForLine a f).breakpoints = s.breakpoints := by unfold State.waitForLine; dsimp only; split <;> simp
@[simp] theorem State.waitForLine_keybuf (a : Word) (f : Format) : (s.waitForLine a f).keybuf = s.keybuf := by unfold State.waitForLine; dsimp only; split <;> simp
@[simp] theorem State.waitForLine_strbuf (a : Word) (f : Format) : (s.waitForLine a f).strbuf = s.strbuf := by unfold State.waitForLine; dsimp only; split <;> simp
@[simp] theorem State.waitForLine_mode (a : Word) (f : Format) : (s.waitForLine a f).mode = s.mode := by unfold State.waitForLine; dsimp only; split <;> simp
@[simp] theorem State.waitForLine_params (a : Word) (f : Format) : (s.waitForLine a f).params = s.params := by unfold State.waitForLine; dsimp only; split <;> simp

/-! ### the state after keyReady -/
@[simp] theorem State.keyReady_acc : (s.keyReady).2.acc = s.acc := by unfold State.keyReady; split; rfl; split <;> rfl
@[simp] theorem State.keyReady_d0 : (s.keyReady).2.d0 = s.d0 := by unfold State.keyReady; split; rfl; split <;> rfl
@[simp] theorem State.keyReady_d1 : (s.keyReady).2.d1 = s.d1 := by unfold State.keyReady; split; rfl; split <;> rfl
@[simp] theorem State.keyReady_d2 : (s.keyReady).2.d2 = s.d2 := by unfold State.keyReady; split; rfl; split <;> rfl
@[simp] theorem State.keyReady_d3 : (s.keyReady).2.d3 = s.d3 := by unfold State.keyReady; split; rfl; split <;> rfl
@[simp] theorem State.keyReady_a0 : (s.keyReady).2.a0 = s.a0 := by unfold State.keyReady; split; rfl; split <;> rfl
@[simp] theorem State.keyReady_a1 : (s.keyReady).2.a1 = s.a1 := by unfold State.keyReady; split; rfl; split <;> rfl
@[simp] theorem State.keyReady_pc : (s.keyReady).2.pc = s.pc := by unfold State.keyReady; split; rfl; split <;> rfl
@[simp] theorem State.keyReady_sp : (s.keyReady).2.sp = s.sp := by unfold State.keyReady; split; rfl; split <;> rfl
@[simp] theorem State.keyReady_fp : (s.keyReady).2.fp = s.fp := by unfold State.keyReady; split; rfl; split <;> rfl
@[simp] theorem State.keyReady_ov : (s.keyReady).2.ov = s.ov := by unfold State.keyReady; split; rfl; split <;> rfl
@[simp] theorem State.keyReady_mem : (s.keyReady).2.mem = s.mem := by unfold State.keyReady; split; rfl; split <;> rfl
@[simp] theorem State.keyReady_ops : (s.keyReady).2.ops = s.ops := by unfold State.keyReady; split; rfl; split <;> rfl
@[simp] theorem State.keyReady_str : (s.keyReady).2.str = s.str := by unfold State.keyReady; split; rfl; split <;> rfl
@[simp] theorem State.keyReady_data : (s.keyReady).2.data = s.data := by unfold State.keyReady; split; rfl; split <;> rfl
@[simp] theorem State.keyReady_handles : (s.keyReady).2.handles = s.handles := by unfold State.keyReady; split; rfl; split <;> rfl
@[simp] theorem State.keyReady_prng : (s.keyReady).2.prng = s.prng := by unfold State.keyReady; split; rfl; split <;> rfl
@[simp] theorem State.keyReady_status : (s.keyReady).2.status = s.status := by unfold State.keyReady; split; rfl; split <;> rfl
@[simp] theorem State.keyReady_proto : (s.keyReady).2.proto = s.proto := by unfold State.keyReady; split; rfl; split <;> rfl
@[simp] theorem State.keyReady_breakpoints : (s.keyReady).2.breakpoints = s.breakpoints := by unfold State.keyReady; split; rfl; split <;> rfl
@[simp] theorem State.keyReady_keybuf : (s.keyReady).2.keybuf = s.keybuf := by unfold State.keyReady; split; rfl; split <;> rfl
@[simp] theorem State.keyReady_strbuf : (s.keyReady).2.strbuf = s.strbuf := by unfold State.keyReady; split; rfl; split <;> rfl
@[simp] theorem State.keyReady_mode : (s.keyReady).2.mode = s.mode := by unfold State.keyReady; split; rfl; split <;> rfl
@[simp] theorem State.keyReady_params : (s.keyReady).2.params = s.params := by unfold State.keyReady; split; rfl; split <;> rfl

/-! ### the state after takeKey -/
@[simp] theorem State.takeKey_acc : (s.takeKey).2.acc = s.acc := by unfold State.takeKey; split <;> split <;> rfl
@[simp] theorem State.takeKey_d0 : (s.takeKey).2.d0 = s.d0 := by unfold State.takeKey; split <;> split <;> rfl
@[simp] theorem State.takeKey_d1 : (s.takeKey).2.d1 = s.d1 := by unfold State.takeKey; split <;> split <;> rfl
@[simp] theorem State.takeKey_d2 : (s.takeKey).2.d2 = s.d2 := by unfold State.takeKey; split <;> split <;> rfl
@[simp] theorem State.takeKey_d3 : (s.takeKey).2.d3 = s.d3 := by unfold State.takeKey; split <;> split <;> rfl
@[simp] theorem State.takeKey_a0 : (s.takeKey).2.a0 = s.a0 := by unfold State.takeKey; split <;> split <;> rfl
@[simp] theorem State.takeKey_a1 : (s.takeKey).2.a1 = s.a1 := by unfold State.takeKey; split <;> split <;> rfl
@[simp] theorem State.takeKey_pc : (s.takeKey).2.pc = s.pc := by unfold State.takeKey; split <;> split <;> rfl
@[simp] theorem State.takeKey_sp : (s.takeKey).2.sp = s.sp := by unfold State.takeKey; split <;> split <;> rfl
@[simp] theorem State.takeKey_fp : (s.takeKey).2.fp = s.fp := by unfold State.takeKey; split <;> split <;> rfl
@[simp] theorem State.takeKey_ov : (s.takeKey).2.ov = s.ov := by unfold State.takeKey; split <;> split <;> rfl
@[simp] theorem State.takeKey_mem : (s.takeKey).2.mem = s.mem := by unfold State.takeKey; split <;> split <;> rfl
@[simp] theorem State.takeKey_ops : (s.takeKey).2.ops = s.ops := by unfold State.takeKey; split <;> split <;> rfl
@[simp] theorem State.takeKey_str : (s.takeKey).2.str = s.str := by unfold State.takeKey; split <;> split <;> rfl
@[simp] theorem State.takeKey_data : (s.takeKey).2.data = s.data := by unfold State.takeKey; split <;> split <;> rfl
@[simp] theorem State.takeKey_handles : (s.takeKey).2.handles = s.handles := by unfold State.takeKey; split <;> split <;> rfl
@[simp] theorem State.takeKey_prng : (s.takeKey).2.prng = s.prng := by unfold State.takeKey; split <;> split <;> rfl
@[simp] theorem State.takeKey_status : (s.takeKey).2.status = s.status := by unfold State.takeKey; split <;> split <;> rfl
@[simp] theorem State.takeKey_proto : (s.takeKey).2.proto = s.proto := by unfold State.takeKey; split <;> split <;> rfl
@[simp] theorem State.takeKey_breakpoints : (s.takeKey).2.breakpoints = s.breakpoints := by unfold State.takeKey; split <;> split <;> rfl
@[simp] theorem State.takeKey_strbuf : (s.takeKey).2.strbuf = s.strbuf := by unfold State.takeKey; split <;> split <;> rfl
@[simp] theorem State.takeKey_mode : (s.takeKey).2.mode = s.mode := by unfold State.takeKey; split <;> split <;> rfl
@[simp] theorem State.takeKey_params : (s.takeKey).2.params = s.params := by unfold State.takeKey; split <;> split <;> rfl

/-! ### the state after takeLine -/
@[simp] theorem State.takeLine_acc : (s.takeLine).2.acc = s.acc := by unfold State.takeLine; split <;> split <;> rfl
@[simp] theorem State.takeLine_d0 : (s.takeLine).2.d0 = s.d0 := by unfold State.takeLine; split <;> split <;> rfl
@[simp] theorem State.takeLine_d1 : (s.takeLine).2.d1 = s.d1 := by unfold State.takeLine; split <;> split <;> rfl
@[simp] theorem State.takeLine_d2 : (s.takeLine).2.d2 = s.d2 := by unfold State.takeLine; split <;> split <;> rfl
@[simp] theorem State.takeLine_d3 : (s.takeLine).2.d3 = s.d3 := by unfold State.takeLine; split <;> split <;> rfl
@[simp] theorem State.takeLine_a0 : (s.takeLine).2.a0 = s.a0 := by unfold State.takeLine; split <;> split <;> rfl
@[simp] theorem State.takeLine_a1 : (s.takeLine).2.a1 = s.a1 := by unfold State.takeLine; split <;> split <;> rfl
@[simp] theorem State.takeLine_pc : (s.takeLine).2.pc = s.pc := by unfold State.takeLine; split <;> split <;> rfl
@[simp] theorem State.takeLine_sp : (s.takeLine).2.sp = s.sp := by unfold State.takeLine; split <;> split <;> rfl
@[simp] theorem State.takeLine_fp : (s.takeLine).2.fp = s.fp := by unfold State.takeLine; split <;> split <;> rfl
@[simp] theorem State.takeLine_ov : (s.takeLine).2.ov = s.ov := by unfold State.takeLine; split <;> split <;> rfl
@[simp] theorem State.takeLine_mem : (s.takeLine).2.mem = s.mem := by unfold State.takeLine; split <;> split <;> rfl
@[simp] theorem State.takeLine_ops : (s.takeLine).2.ops = s.ops := by unfold State.takeLine; split <;> split <;> rfl
@[simp] theorem State.takeLine_str : (s.takeLine).2.str = s.str := by unfold State.takeLine; split <;> split <;> rfl
@[simp] theorem State.takeLine_data : (s.takeLine).2.data = s.data := by unfold State.takeLine; split <;> split <;> rfl
@[simp] theorem State.takeLine_handles : (s.takeLine).2.handles = s.handles := by unfold State.takeLine; split <;> split <;> rfl
@[simp] theorem State.takeLine_prng : (s.takeLine).2.prng = s.prng := by unfold State.takeLine; split <;> split <;> rfl
@[simp] theorem State.takeLine_status : (s.takeLine).2.status = s.status := by unfold State.takeLine; split <;> split <;> rfl
@[simp] theorem State.takeLine_proto : (s.takeLine).2.proto = s.proto := by unfold State.takeLine; split <;> split <;> rfl
@[simp] theorem State.takeLine_breakpoints : (s.takeLine).2.breakpoints = s.breakpoints := by unfold State.takeLine; split <;> split <;> rfl
@[simp] theorem State.takeLine_keybuf : (s.takeLine).2.keybuf = s.keybuf := by unfold State.takeLine; split <;> split <;> rfl
@[simp] theorem State.takeLine_mode : (s.takeLine).2.mode = s.mode := by unfold State.takeLine; split <;> split <;> rfl
@[simp] theorem State.takeLine_params : (s.takeLine).2.params = s.params := by unfold State.takeLine; split <;> split <;> rfl

/-! ### the state after readClock -/
@[simp] theorem State.readClock_acc : (s.readClock).2.acc = s.acc := by unfold State.readClock; split <;> rfl
@[simp] theorem State.readClock_d0 : (s.readClock).2.d0 = s.d0 := by unfold State.readClock; split <;> rfl
@[simp] theorem State.readClock_d1 : (s.readClock).2.d1 = s.d1 := by unfold State.readClock; split <;> rfl
@[simp] theorem State.readClock_d2 : (s.readClock).2.d2 = s.d2 := by unfold State.readClock; split <;> rfl
@[simp] theorem State.readClock_d3 : (s.readClock).2.d3 = s.d3 := by unfold State.readClock; split <;> rfl
@[simp] theorem State.readClock_a0 : (s.readClock).2.a0 = s.a0 := by unfold State.readClock; split <;> rfl
@[simp] theorem State.readClock_a1 : (s.readClock).2.a1 = s.a1 := by unfold State.readClock; split <;> rfl
@[simp] theorem State.readClock_pc : (s.readClock).2.pc = s.pc := by unfold State.readClock; split <;> rfl
@[simp] theorem State.readClock_sp : (s.readClock).2.sp = s.sp := by unfold State.readClock; split <;> rfl
@[simp] theorem State.readClock_fp : (s.readClock).2.fp = s.fp := by unfold State.readClock; split <;> rfl
@[simp] theorem State.readClock_ov : (s.readClock).2.ov = s.ov := by unfold State.readClock; split <;> rfl
@[simp] theorem State.readClock_mem : (s.readClock).2.mem = s.mem := by unfold State.readClock; split <;> rfl
@[simp] theorem State.readClock_ops : (s.readClock).2.ops = s.ops := by unfold State.readClock; split <;> rfl
@[simp] theorem State.readClock_str : (s.readClock).2.str = s.str := by unfold State.readClock; split <;> rfl
@[simp] theorem State.readClock_data : (s.readClock).2.data = s.data := by unfold State.readClock; split <;> rfl
@[simp] theorem State.readClock_handles : (s.readClock).2.handles = s.handles := by unfold State.readClock; split <;> rfl
@[simp] theorem State.readClock_prng : (s.readClock).2.prng = s.prng := by unfold State.readClock; split <;> rfl
@[simp] theorem State.readClock_status : (s.readClock).2.status = s.status := by unfold State.readClock; split <;> rfl
@[simp] theorem State.readClock_proto : (s.readClock).2.proto = s.proto := by unfold State.readClock; split <;> rfl
@[simp] theorem State.readClock_breakpoints : (s.readClock).2.breakpoints = s.breakpoints := by unfold State.readClock; split <;> rfl
@[simp] theorem State.readClock_keybuf : (s.readClock).2.keybuf = s.keybuf := by unfold State.readClock; split <;> rfl
@[simp] theorem State.readClock_strbuf : (s.readClock).2.strbuf = s.strbuf := by unfold State.readClock; split <;> rfl
@[simp] theorem State.readClock_mode : (s.readClock).2.mode = s.mode := by unfold State.readClock; split <;> rfl
@[simp] theorem State.readClock_params : (s.readClock).2.params = s.params := by unfold State.readClock; split <;> rfl

/-! ### the state after avail -/
@[simp] theorem State.avail_acc (x : Byte) : (s.avail x).2.acc = s.acc := by
  unfold State.avail; split; rfl; dsimp only; split <;> rfl
@[simp] theorem State.avail_d0 (x : Byte) : (s.avail x).2.d0 = s.d0 := by
  unfold State.avail; split; rfl; dsimp only; split <;> rfl
@[simp] theorem State.avail_d1 (x : Byte) : (s.avail x).2.d1 = s.d1 := by
  unfold State.avail; split; rfl; dsimp only; split <;> rfl
@[simp] theorem State.avail_d2 (x : Byte) : (s.avail x).2.d2 = s.d2 := by
  unfold State.avail; split; rfl; dsimp only; split <;> rfl
@[simp] theorem State.avail_d3 (x : Byte) : (s.avail x).2.d3 = s.d3 := by
  unfold State.avail; split; rfl; dsimp only; split <;> rfl
@[simp] theorem State.avail_a0 (x : Byte) : (s.avail x).2.a0 = s.a0 := by
  unfold State.avail; split; rfl; dsimp only; split <;> rfl
@[simp] theorem State.avail_a1 (x : Byte) : (s.avail x).2.a1 = s.a1 := by
  unfold State.avail; split; rfl; dsimp only; split <;> rfl
@[simp] theorem State.avail_pc (x : Byte) : (s.avail x).2.pc = s.pc := by
  unfold State.avail; split; rfl; dsimp only; split <;> rfl
@[simp] theorem State.avail_sp (x : Byte) : (s.avail x).2.sp = s.sp := by
  unfold State.avail; split; rfl; dsimp only; split <;> rfl
@[simp] theorem State.avail_fp (x : Byte) : (s.avail x).2.fp = s.fp := by
  unfold State.avail; split; rfl; dsimp only; split <;> rfl
@[simp] theorem State.avail_ov (x : Byte) : (s.avail x).2.ov = s.ov := by
  unfold State.avail; split; rfl; dsimp only; split <;> rfl
@[simp] theorem State.avail_mem (x : Byte) : (s.avail x).2.mem = s.mem := by
  unfold State.avail; split; rfl; dsimp only; split <;> rfl
@[simp] theorem State.avail_ops (x : Byte) : (s.avail x).2.ops = s.ops := by
  unfold State.avail; split; rfl; dsimp only; split <;> rfl
@[simp] theorem State.avail_str (x : Byte) : (s.avail x).2.str = s.str := by
  unfold State.avail; split; rfl; dsimp only; split <;> rfl
@[simp] theorem State.avail_data (x : Byte) : (s.avail x).2.data = s.data := by
  unfold State.avail; split; rfl; dsimp only; split <;> rfl
@[simp] theorem State.avail_prng (x : Byte) : (s.avail x).2.prng = s.prng := by
  unfold State.avail; split; rfl; dsimp only; split <;> rfl
@[simp] theorem State.avail_status (x : Byte) : (s.avail x).2.status = s.status := by
  unfold State.avail; split; rfl; dsimp only; split <;> rfl
@[simp] theorem State.avail_proto (x : Byte) : (s.avail x).2.proto = s.proto := by
  unfold State.avail; split; rfl; dsimp only; split <;> rfl
@[simp] theorem State.avail_breakpoints (x : Byte) : (s.avail x).2.breakpoints = s.breakpoints := by
  unfold State.avail; split; rfl; dsimp only; split <;> rfl
@[simp] theorem State.avail_keybuf (x : Byte) : (s.avail x).2.keybuf = s.keybuf := by
  unfold State.avail; split; rfl; dsimp only; split <;> rfl
@[simp] theorem State.avail_strbuf (x : Byte) : (s.avail x).2.strbuf = s.strbuf := by
  unfold State.avail; split; rfl; dsimp only; split <;> rfl
@[simp] theorem State.avail_mode (x : Byte) : (s.avail x).2.mode = s.mode := by
  unfold State.avail; split; rfl; dsimp only; split <;> rfl
@[simp] theorem State.avail_params (x : Byte) : (s.avail x).2.params = s.params := by
  unfold State.avail; split; rfl; dsimp only; split <;> rfl

/-! ### emitAll -/
@[simp] theorem State.emitAll_acc (fs : List DeviceFrame) : (s.emitAll fs).acc = s.acc := by
  induction fs generalizing s with
  | nil => rfl
  | cons g gs ih => exact (ih (s.emit g)).trans (by simp)
@[simp] theorem State.emitAll_d0 (fs : List DeviceFrame) : (s.emitAll fs).d0 = s.d0 := by
  induction fs generalizing s with
  | nil => rfl
  | cons g gs ih => exact (ih (s.emit g)).trans (by simp)
@[simp] theorem State.emitAll_d1 (fs : List DeviceFrame) : (s.emitAll fs).d1 = s.d1 := by
  induction fs generalizing s with
  | nil => rfl
  | cons g gs ih => exact (ih (s.emit g)).trans (by simp)
@[simp] theorem State.emitAll_d2 (fs : List DeviceFrame) : (s.emitAll fs).d2 = s.d2 := by
  induction fs generalizing s with
  | nil => rfl
  | cons g gs ih => exact (ih (s.emit g)).trans (by simp)
@[simp] theorem State.emitAll_d3 (fs : List DeviceFrame) : (s.emitAll fs).d3 = s.d3 := by
  induction fs generalizing s with
  | nil => rfl
  | cons g gs ih => exact (ih (s.emit g)).trans (by simp)
@[simp] theorem State.emitAll_a0 (fs : List DeviceFrame) : (s.emitAll fs).a0 = s.a0 := by
  induction fs generalizing s with
  | nil => rfl
  | cons g gs ih => exact (ih (s.emit g)).trans (by simp)
@[simp] theorem State.emitAll_a1 (fs : List DeviceFrame) : (s.emitAll fs).a1 = s.a1 := by
  induction fs generalizing s with
  | nil => rfl
  | cons g gs ih => exact (ih (s.emit g)).trans (by simp)
@[simp] theorem State.emitAll_pc (fs : List DeviceFrame) : (s.emitAll fs).pc = s.pc := by
  induction fs generalizing s with
  | nil => rfl
  | cons g gs ih => exact (ih (s.emit g)).trans (by simp)
@[simp] theorem State.emitAll_sp (fs : List DeviceFrame) : (s.emitAll fs).sp = s.sp := by
  induction fs generalizing s with
  | nil => rfl
  | cons g gs ih => exact (ih (s.emit g)).trans (by simp)
@[simp] theorem State.emitAll_fp (fs : List DeviceFrame) : (s.emitAll fs).fp = s.fp := by
  induction fs generalizing s with
  | nil => rfl
  | cons g gs ih => exact (ih (s.emit g)).trans (by simp)
@[simp] theorem State.emitAll_ov (fs : List DeviceFrame) : (s.emitAll fs).ov = s.ov := by
  induction fs generalizing s with
  | nil => rfl
  | cons g gs ih => exact (ih (s.emit g)).trans (by simp)
@[simp] theorem State.emitAll_mem (fs : List DeviceFrame) : (s.emitAll fs).mem = s.mem := by
  induction fs generalizing s with
  | nil => rfl
  | cons g gs ih => exact (ih (s.emit g)).trans (by simp)
@[simp] theorem State.emitAll_ops (fs : List DeviceFrame) : (s.emitAll fs).ops = s.ops := by
  induction fs generalizing s with
  | nil => rfl
  | cons g gs ih => exact (ih (s.emit g)).trans (by simp)
@[simp] theorem State.emitAll_str (fs : List DeviceFrame) : (s.emitAll fs).str = s.str := by
  induction fs generalizing s with
  | nil => rfl
  | cons g gs ih => exact (ih (s.emit g)).trans (by simp)
@[simp] theorem State.emitAll_data (fs : List DeviceFrame) : (s.emitAll fs).data = s.data := by
  induction fs generalizing s with
  | nil => rfl
  | cons g gs ih => exact (ih (s.emit g)).trans (by simp)
@[simp] theorem State.emitAll_handles (fs : List DeviceFrame) : (s.emitAll fs).handles = s.handles := by
  induction fs generalizing s with
  | nil => rfl
  | cons g gs ih => exact (ih (s.emit g)).trans (by simp)
@[simp] theorem State.emitAll_prng (fs : List DeviceFrame) : (s.emitAll fs).prng = s.prng := by
  induction fs generalizing s with
  | nil => rfl
  | cons g gs ih => exact (ih (s.emit g)).trans (by simp)
@[simp] theorem State.emitAll_status (fs : List DeviceFrame) : (s.emitAll fs).status = s.status := by
  induction fs generalizing s with
  | nil => rfl
  | cons g gs ih => exact (ih (s.emit g)).trans (by simp)
@[simp] theorem State.emitAll_proto (fs : List DeviceFrame) : (s.emitAll fs).proto = s.proto := by
  induction fs generalizing s with
  | nil => rfl
  | cons g gs ih => exact (ih (s.emit g)).trans (by simp)
@[simp] theorem State.emitAll_breakpoints (fs : List DeviceFrame) : (s.emitAll fs).breakpoints = s.breakpoints := by
  induction fs generalizing s with
  | nil => rfl
  | cons g gs ih => exact (ih (s.emit g)).trans (by simp)
@[simp] theorem State.emitAll_keybuf (fs : List DeviceFrame) : (s.emitAll fs).keybuf = s.keybuf := by
  induction fs generalizing s with
  | nil => rfl
  | cons g gs ih => exact (ih (s.emit g)).trans (by simp)
@[simp] theorem State.emitAll_strbuf (fs : List DeviceFrame) : (s.emitAll fs).strbuf = s.strbuf := by
  induction fs generalizing s with
  | nil => rfl
  | cons g gs ih => exact (ih (s.emit g)).trans (by simp)
@[simp] theorem State.emitAll_mode (fs : List DeviceFrame) : (s.emitAll fs).mode = s.mode := by
  induction fs generalizing s with
  | nil => rfl
  | cons g gs ih => exact (ih (s.emit g)).trans (by simp)
@[simp] theorem State.emitAll_params (fs : List DeviceFrame) : (s.emitAll fs).params = s.params := by
  induction fs generalizing s with
  | nil => rfl
  | cons g gs ih => exact (ih (s.emit g)).trans (by simp)

/-! ### what the updates set -/
@[simp] theorem State.setDr_dr_same (r : DataReg) (v : Byte) : (s.setDr r v).dr r = v := by cases r <;> rfl
theorem State.setDr_dr_ne (r q : DataReg) (v : Byte) (h : q ≠ r) : (s.setDr r v).dr q = s.dr q := by
  cases r <;> cases q <;> first | rfl | exact absurd rfl h
theorem State.setDr_dr (r q : DataReg) (v : Byte) : (s.setDr r v).dr q = if q = r then v else s.dr q := by
  split
  · subst_vars; exact State.setDr_dr_same ..
  · exact State.setDr_dr_ne _ _ _ _ ‹_›
@[simp] theorem State.setAr_ar_same (r : AddrReg) (v : Word) : (s.setAr r v).ar r = v := by cases r <;> rfl
theorem State.setAr_ar_ne (r q : AddrReg) (v : Word) (h : q ≠ r) : (s.setAr r v).ar q = s.ar q := by
  cases r <;> cases q <;> first | rfl | exact absurd rfl h
theorem State.setAr_ar (r q : AddrReg) (v : Word) : (s.setAr r v).ar q = if q = r then v else s.ar q := by
  split
  · subst_vars; exact State.setAr_ar_same ..
  · exact State.setAr_ar_ne _ _ _ _ ‹_›
@[simp] theorem State.setDr_ar (r : DataReg) (v : Byte) (q : AddrReg) : (s.setDr r v).ar q = s.ar q := by
  cases r <;> cases q <;> rfl
@[simp] theorem State.setAr_dr (r : AddrReg) (v : Word) (q : DataReg) : (s.setAr r v).dr q = s.dr q := by
  cases r <;> cases q <;> rfl
@[simp] theorem State.advance_pc (f : Format) : (s.advance f).pc = s.pc + BitVec.ofNat 16 f.length := rfl
@[simp] theorem State.advance_dr (f : Format) (q : DataReg) : (s.advance f).dr q = s.dr q := by cases q <;> rfl
@[simp] theorem State.advance_ar (f : Format) (q : AddrReg) : (s.advance f).ar q = s.ar q := by cases q <;> rfl
@[simp] theorem State.branch_pc (f : Format) (c : Bool) (a : Word) :
    (s.branch f c a).pc = if c then a else s.pc + BitVec.ofNat 16 f.length := rfl
@[simp] theorem State.aluWrite8_acc (r : Int) : (s.aluWrite8 r).acc = BitVec.ofInt 8 r := rfl
@[simp] theorem State.aluWrite8_ov (r : Int) : (s.aluWrite8 r).ov = overflow8 r := rfl
@[simp] theorem State.aluWrite16_ov (x : AddrReg) (r : Int) : (s.aluWrite16 x r).ov = overflow16 r := rfl
@[simp] theorem State.aluWrite16_ar_same (x : AddrReg) (r : Int) : (s.aluWrite16 x r).ar x = BitVec.ofInt 16 r := by
  cases x <;> rfl
@[simp] theorem State.push8_sp (v : Byte) : (s.push8 v).sp = s.sp - 1 := rfl
@[simp] theorem State.push8_mem (v : Byte) : (s.push8 v).mem = Memory.write s.mem (s.sp - 1).toNat v := rfl
@[simp] theorem State.dropBytes_sp (n : Nat) : (s.dropBytes n).sp = s.sp + BitVec.ofNat 16 n := rfl
@[simp] theorem State.resume_pc (a : Word) : (s.resume a).pc = a := rfl
@[simp] theorem State.resume_status (a : Word) : (s.resume a).status = .running := rfl
@[simp] theorem State.cancel_status : s.cancel.status = .cancelled := rfl
@[simp] theorem State.takeTrap_status (k : TrapKind) : (s.takeTrap k).status = .crashed k := by
  unfold State.takeTrap; split <;> simp
@[simp] theorem State.halt_status (r : HaltReason) : (s.halt r).status = .halted r := by
  unfold State.halt; split <;> simp
@[simp] theorem State.waitForKey_status (x : DataReg) : (s.waitForKey x).status = .waitKey s.pc x := by
  unfold State.waitForKey; dsimp only; split <;> simp
@[simp] theorem State.waitForLine_status (a : Word) (f : Format) :
    (s.waitForLine a f).status = .waitStr s.pc a f.length := by
  unfold State.waitForLine; dsimp only; split <;> simp
@[simp] theorem State.setHandle_handle_same (f : Byte) (x : FileHandle) : (s.setHandle f x).handle f = x := by
  simp [State.handle, State.setHandle]
theorem State.setHandle_handle_ne (f g : Byte) (x : FileHandle) (h : g ≠ f) :
    (s.setHandle f x).handle g = s.handle g := by
  have : f.toNat ≠ g.toNat := fun e => h (BitVec.eq_of_toNat_eq e.symm)
  simp [State.handle, State.setHandle, this]

end Sys2Proof.Machine
end

