-- ==== Sys2Proof/Laws/Ops.lean ====
section
/-! SUPPORT. What each shared operation can do, said once: the state it answers as an update of the state it was given. -/
namespace Sys2Proof.Machine

variable {s t : State}

/-! ### checks -/

theorem rangeOk_iff (a n size : Nat) : rangeOk a n size = true ↔ a < size ∧ a + n ≤ size := by
  simp [rangeOk]

@[simp] theorem raise_eq (k : TrapKind) (s : State) : raise k s = .next (s.takeTrap k) := rfl

@[simp] theorem require_true (k : TrapKind) (s : State) (rest : StepResult) : require true k s rest = rest := rfl

@[simp] theorem require_false (k : TrapKind) (s : State) (rest : StepResult) :
    require false k s rest = .next (s.takeTrap k) := rfl

/-- A checked instruction either goes on or takes the trap of its check. -/
theorem require_next (c : Bool) (k : TrapKind) (rest : StepResult) :
    require c k s rest = .next t ↔ (c = true ∧ rest = .next t) ∨ (c = false ∧ t = s.takeTrap k) := by
  cases c <;> simp [require, raise, eq_comm]

/-! ### frames, traps and ends of a run -/

theorem State.emit_eq (s : State) (f : DeviceFrame) : ∃ h, s.emit f = { s with host := h } := by
  unfold State.emit; split <;> exact ⟨_, rfl⟩

theorem State.emitAll_eq (s : State) (fs : List DeviceFrame) : ∃ h, s.emitAll fs = { s with host := h } := by
  induction fs generalizing s with
  | nil => exact ⟨_, rfl⟩
  | cons f fs ih =>
    obtain ⟨h, e⟩ := s.emit_eq f
    obtain ⟨h', e'⟩ := ih (s.emit f)
    exact ⟨h', by rw [show s.emitAll (f :: fs) = (s.emit f).emitAll fs from rfl, e', e]⟩

/-- A link that is not broken takes the frame. -/
theorem State.emit_sent (s : State) (f : DeviceFrame) (h : s.host.sentLeft = none) :
    s.emit f = { s with host := { s.host with sent := s.host.sent ++ [f] } } := by
  unfold State.emit; rw [h]

/-- A link that is not broken takes all the frames, in order. -/
theorem State.emitAll_sent (s : State) (fs : List DeviceFrame) (h : s.host.sentLeft = none) :
    s.emitAll fs = { s with host := { s.host with sent := s.host.sent ++ fs } } := by
  induction fs generalizing s with
  | nil => simp [State.emitAll]
  | cons f fs ih =>
    have e := State.emit_sent s f h
    rw [show s.emitAll (f :: fs) = (s.emit f).emitAll fs from rfl, ih (s.emit f) (by rw [e]; exact h), e]
    simp

theorem State.takeTrap_eq (s : State) (k : TrapKind) :
    ∃ p h, s.takeTrap k = { s with status := .crashed k, proto := p, host := h } := by
  unfold State.takeTrap
  split
  · exact ⟨_, _, rfl⟩
  · obtain ⟨h, e⟩ := State.emit_eq ({ s with status := .crashed k, proto := .crashed } : State) .crashed
    exact ⟨_, h, e⟩

theorem State.halt_eq (s : State) (r : HaltReason) :
    ∃ p h, s.halt r = { s with status := .halted r, proto := p, host := h } := by
  unfold State.halt
  split
  · exact ⟨_, _, rfl⟩
  · obtain ⟨h, e⟩ := State.emit_eq ({ s with status := .halted r, proto := .halted } : State) .finished
    exact ⟨_, h, e⟩

theorem State.waitForKey_eq (s : State) (x : DataReg) :
    ∃ p h, s.waitForKey x = { s with status := .waitKey s.pc x, proto := p, host := h } := by
  unfold State.waitForKey
  dsimp only
  split
  · exact ⟨_, _, rfl⟩
  · obtain ⟨h, e⟩ := State.emit_eq ({ s with status := .waitKey s.pc x, proto := .awaitingKey } : State) .awaitKey
    exact ⟨_, h, e⟩

theorem State.waitForLine_eq (s : State) (a : Word) (f : Format) :
    ∃ p h, s.waitForLine a f = { s with status := .waitStr s.pc a f.length, proto := p, host := h } := by
  unfold State.waitForLine
  dsimp only
  split
  · exact ⟨_, _, rfl⟩
  · obtain ⟨h, e⟩ := State.emit_eq
      ({ s with status := .waitStr s.pc a f.length, proto := .awaitingString } : State) .awaitString
    exact ⟨_, h, e⟩

/-- The end-of-ops check leaves the state or ends the run. -/
theorem State.checkEnd_cases (s : State) :
    (s.status = .running ∧ s.pc.toNat = s.ops.length ∧ s.checkEnd = s.halt .endOfOps) ∨
      (¬ (s.status = .running ∧ s.pc.toNat = s.ops.length) ∧ s.checkEnd = s) := by
  unfold State.checkEnd
  split
  · exact .inl ⟨(‹_ ∧ _›).1, (‹_ ∧ _›).2, rfl⟩
  · exact .inr ⟨‹_›, rfl⟩

theorem State.checkEnd_eq (s : State) :
    ∃ st p h, s.checkEnd = { s with status := st, proto := p, host := h } := by
  rcases s.checkEnd_cases with ⟨-, -, e⟩ | ⟨-, e⟩
  · obtain ⟨p, h, e'⟩ := s.halt_eq .endOfOps
    exact ⟨_, p, h, e.trans e'⟩
  · exact ⟨_, _, _, e⟩

/-! ### host requests -/

theorem State.keyReady_eq (s : State) : ∃ h, s.keyReady.2 = { s with host := h } := by
  unfold State.keyReady; split
  · exact ⟨_, rfl⟩
  · split <;> exact ⟨_, rfl⟩

theorem State.takeKey_eq (s : State) : ∃ k h, s.takeKey.2 = { s with keybuf := k, host := h } := by
  unfold State.takeKey; split <;> split <;> exact ⟨_, _, rfl⟩

theorem State.takeLine_eq (s : State) : ∃ l h, s.takeLine.2 = { s with strbuf := l, host := h } := by
  unfold State.takeLine; split <;> split <;> exact ⟨_, _, rfl⟩

theorem State.readClock_eq (s : State) : ∃ h, s.readClock.2 = { s with host := h } := by
  unfold State.readClock; split <;> exact ⟨_, rfl⟩

theorem State.avail_eq (s : State) (x : Byte) :
    ∃ hs h, (s.avail x).2 = { s with handles := hs, host := h } := by
  unfold State.avail
  split
  · exact ⟨_, _, rfl⟩
  · dsimp only; split <;> exact ⟨_, _, rfl⟩

/-- A host request moves no more bytes than asked. -/
theorem HostSide.limit_le (h : HostSide) (k : Nat) : (h.limit k).1 ≤ k := by
  unfold HostSide.limit; split <;> simp

/-- A read answers no more bytes than asked. -/
theorem HostSide.fileRead_length (h : HostSide) (f : Byte) (p n : Nat) : (h.fileRead f p n).1.length ≤ n := by
  simp only [HostSide.fileRead, List.length_take]
  omega

/-- A write answers no more bytes than given. -/
theorem HostSide.fileWrite_le (h : HostSide) (f : Byte) (p : Nat) (bs : List Byte) :
    (h.fileWrite f p bs).1 ≤ bs.length := by
  unfold HostSide.fileWrite
  split
  · simp
  · exact (HostSide.limit_le _ _).trans (Nat.min_le_left _ _)

/-- A skip answers no more bytes than asked. -/
theorem HostSide.fileSkip_le (h : HostSide) (f : Byte) (p n : Nat) : (h.fileSkip f p n).1 ≤ n :=
  (HostSide.limit_le _ _).trans (Nat.min_le_left _ _)

/-! ### output -/

/-- An output instruction goes on with only the host's side and PC changed, or takes IoBroken. -/
theorem printBytes_next (bs : List Byte) (f : Format) (e : printBytes bs f s = .next t) :
    (∃ h, t = { s.advance f with host := h }) ∨
      (s.mode = .direct ∧ ∃ h, t = ({ s with host := h } : State).takeTrap .ioBroken) := by
  unfold printBytes at e
  split at e
  · split at e
    dsimp only at e
    split at e
    · exact .inl ⟨_, (Host.Outcome.next.inj e).symm⟩
    · exact .inr ⟨‹_›, _, (Host.Outcome.next.inj e).symm⟩
  · obtain ⟨h, e'⟩ := s.emitAll_eq ((payloads bs).map .stdout)
    rw [e'] at e
    exact .inl ⟨h, by simpa [State.advance, State.pcn] using e.symm⟩

/-- DEBUG goes on with only the host's side and PC changed, or takes IoBroken. -/
theorem printDump_next (f : Format) (e : printDump f s = .next t) :
    (∃ h, t = { s.advance f with host := h }) ∨
      (s.mode = .direct ∧ ∃ h, t = ({ s with host := h } : State).takeTrap .ioBroken) := by
  unfold printDump at e
  dsimp only at e
  split at e
  · split at e
    · exact .inl ⟨_, (Host.Outcome.next.inj e).symm⟩
    · exact .inr ⟨‹_›, _, (Host.Outcome.next.inj e).symm⟩
  · obtain ⟨h, e'⟩ := s.emit_eq (.dump (s.advance f).dump)
    rw [e'] at e
    exact .inl ⟨h, by simpa [State.advance, State.pcn] using e.symm⟩

/-! ### packed data -/

/-- An offset that LD answers lies in DATA. -/
theorem ldOffset_lt (data : List Byte) (id o i a : Nat) (e : ldOffset data id o i = .ok a) : a < data.length := by
  unfold ldOffset at e
  dsimp only at e
  repeat' split at e
  all_goals first | (cases e; omega) | cases e

theorem loadOffset_next (x : AddrReg) (f : Format) (r : Except TrapKind Nat) (e : loadOffset x f r s = .next t) :
    (∃ a, r = .ok a ∧ t = (s.advance f).setAr x (BitVec.ofNat 16 a)) ∨ ∃ k, r = .error k ∧ t = s.takeTrap k := by
  cases r with
  | ok a => exact .inl ⟨a, rfl, by simpa [loadOffset] using e.symm⟩
  | error k => exact .inr ⟨k, rfl, by simpa [loadOffset] using e.symm⟩

theorem loadLength_next (f : Format) (r : Except TrapKind Byte) (e : loadLength f r s = .next t) :
    (∃ v, r = .ok v ∧ t = (s.advance f).setDr .acc v) ∨ ∃ k, r = .error k ∧ t = s.takeTrap k := by
  cases r with
  | ok a => exact .inl ⟨a, rfl, by simpa [loadLength] using e.symm⟩
  | error k => exact .inr ⟨k, rfl, by simpa [loadLength] using e.symm⟩

/-! ### files -/

/-- FILEW and its host request change ACC, PC, the handle table and the host's side. -/
theorem fileWriteBytes_next (f : Byte) (bs : List Byte) (fmt : Format) (e : fileWriteBytes f bs fmt s = .next t) :
    ∃ v hs h, t = { s.advance fmt with acc := v, handles := hs, host := h } := by
  obtain ⟨hs, h, ea⟩ := s.avail_eq f
  unfold fileWriteBytes at e
  split at e <;> (rename_i heq; rw [heq] at ea; dsimp only at ea; subst ea)
  · exact ⟨0, hs, h, by simpa [State.advance, State.pcn] using e.symm⟩
  · exact ⟨_, _, _, (Host.Outcome.next.inj e).symm⟩

/-- FILER traps, or changes ACC, PC, the handle table, the host's side and at most ACC bytes of the buffer. -/
theorem fileReadTo_next (f : Byte) (a : Nat) (fmt : Format) (e : fileReadTo f a fmt s = .next t) :
    (rangeOk a s.acc.toNat Config.memSize = false ∧ t = s.takeTrap .memOutOfRange) ∨
      (rangeOk a s.acc.toNat Config.memSize = true ∧ ∃ bs v hs h, bs.length ≤ s.acc.toNat ∧
        t = { s.advance fmt with mem := Memory.writeBytes s.mem a bs, acc := v, handles := hs, host := h }) := by
  rcases (require_next _ _ _).1 e with ⟨c, e⟩ | ⟨c, e⟩
  · refine .inr ⟨c, ?_⟩
    obtain ⟨hs, h, ea⟩ := s.avail_eq f
    split at e <;> (rename_i heq; rw [heq] at ea; dsimp only at ea; subst ea)
    · exact ⟨[], 0, hs, h, by simp, by simpa [State.advance, State.pcn, Memory.writeBytes] using e.symm⟩
    · exact ⟨_, _, _, _, HostSide.fileRead_length _ _ _ _, (Host.Outcome.next.inj e).symm⟩
  · exact .inl ⟨c, e⟩

/-- FILEW of a block traps, or changes ACC, PC, the handle table and the host's side. -/
theorem fileWriteFrom_next (f : Byte) (a : Nat) (fmt : Format) (e : fileWriteFrom f a fmt s = .next t) :
    t = s.takeTrap .memOutOfRange ∨ ∃ v hs h, t = { s.advance fmt with acc := v, handles := hs, host := h } := by
  rcases (require_next _ _ _).1 e with ⟨_, e⟩ | ⟨_, e⟩
  · exact .inr (fileWriteBytes_next _ _ _ e)
  · exact .inl e

/-- FCHK changes PC, the handle table and the host's side. -/
theorem fileBranch_next (f : Byte) (target : Word) (fmt : Format) (e : fileBranch f target fmt s = .next t) :
    ∃ ok hs h, t = { s.branch fmt ok target with handles := hs, host := h } := by
  obtain ⟨hs, h, ea⟩ := s.avail_eq f
  unfold fileBranch at e
  generalize s.avail f = p at e ea
  obtain ⟨ok, u⟩ := p
  dsimp only at ea
  subst ea
  exact ⟨ok, hs, h, (Host.Outcome.next.inj e).symm⟩

/-! ### calls and input -/

/-- CALL traps, or pushes PCn, sets FP to SP and PC to the target. -/
theorem callTo_next (target : Word) (f : Format) (e : callTo target f s = .next t) :
    (s.sp.toNat < 2 ∧ t = s.takeTrap .stackOverflow) ∨
      (2 ≤ s.sp.toNat ∧ t = { s.push16 (s.pcn f) with fp := s.sp - 1 - 1, pc := target }) := by
  rcases (require_next _ _ _).1 e with ⟨c, e⟩ | ⟨c, e⟩
  · exact .inr ⟨by simpa [State.canPush] using c, (Host.Outcome.next.inj e).symm⟩
  · exact .inl ⟨by simpa [State.canPush] using c, e⟩

/-- IPOLL changes PC and the host's side. -/
theorem pollTo_next (target : Word) (f : Format) (e : pollTo target f s = .next t) :
    ∃ ready h, t = { s.branch f ready target with host := h } := by
  obtain ⟨h, ea⟩ := s.keyReady_eq
  unfold pollTo at e
  generalize s.keyReady = p at e ea
  obtain ⟨ok, u⟩ := p
  dsimp only at ea
  subst ea
  exact ⟨ok, h, (Host.Outcome.next.inj e).symm⟩

/-- RSTR traps, stores a line, or waits with PC at PC0. -/
theorem readLineTo_next (a : Word) (f : Format) (e : readLineTo a f s = .next t) :
    t = s.takeTrap .memOutOfRange ∨
      (a.toNat + 255 ≤ 65535 ∧ ((∃ l q h, t = { (s.advance f).storeLine a l with strbuf := q, host := h }) ∨
        ∃ q p h, t = { s with status := .waitStr s.pc a f.length, strbuf := q, proto := p, host := h })) := by
  rcases (require_next _ _ _).1 e with ⟨c, e⟩ | ⟨_, e⟩
  · refine .inr ⟨((rangeOk_iff _ _ _).1 c).2, ?_⟩
    obtain ⟨q, h, ea⟩ := s.takeLine_eq
    split at e <;> (rename_i heq; rw [heq] at ea; dsimp only at ea; subst ea)
    · exact .inl ⟨_, q, h, (Host.Outcome.next.inj e).symm⟩
    · obtain ⟨p, h', ew⟩ := State.waitForLine_eq ({ s with strbuf := q, host := h } : State) a f
      rw [ew] at e
      exact .inr ⟨q, p, h', (Host.Outcome.next.inj e).symm⟩
  · exact .inl e

end Sys2Proof.Machine
end

