-- ==== Sys2Proof/Laws/PerInstr.lean ====
section
/-! SUPPORT. The shape of every instruction's encoding, one lemma per constructor of Instr: its opcode byte is assigned,
its length is its format's, and its operand bytes are legal (30_encoding.md R84, R88). -/
namespace Sys2Proof.Laws.EncodingShape

/-- The encoding of `i` has the shape its opcode byte gives it. -/
def Statement (i : Instr) : Prop :=
  ∃ f op operands, encode i = op :: operands ∧ formatOf op = some f ∧ (encode i).length = f.length ∧
    operandsLegal f.fields operands = true

theorem addRR (x : DataReg) (y : DataReg) : Statement (.addRR x y) :=
  ⟨.rr, 0x01, _, rfl, rfl, rfl, by simp [Format.fields, operandsLegal]⟩

theorem addRN (x : DataReg) (y : Num) : Statement (.addRN x y) :=
  ⟨.rn, 0x02, _, rfl, rfl, rfl, by simp [Format.fields, operandsLegal]⟩

theorem addRA (x : DataReg) (y : AddrReg) : Statement (.addRA x y) :=
  ⟨.ra, 0x03, _, rfl, rfl, rfl, by simp [Format.fields, operandsLegal]⟩

theorem subRR (x : DataReg) (y : DataReg) : Statement (.subRR x y) :=
  ⟨.rr, 0x04, _, rfl, rfl, rfl, by simp [Format.fields, operandsLegal]⟩

theorem subRN (x : DataReg) (y : Num) : Statement (.subRN x y) :=
  ⟨.rn, 0x05, _, rfl, rfl, rfl, by simp [Format.fields, operandsLegal]⟩

theorem subRA (x : DataReg) (y : AddrReg) : Statement (.subRA x y) :=
  ⟨.ra, 0x06, _, rfl, rfl, rfl, by simp [Format.fields, operandsLegal]⟩

theorem incR (x : DataReg) : Statement (.incR x) :=
  ⟨.r, 0x07, _, rfl, rfl, rfl, by simp [Format.fields, operandsLegal]⟩

theorem incA (x : AddrReg) : Statement (.incA x) :=
  ⟨.a, 0x08, _, rfl, rfl, rfl, by simp [Format.fields, operandsLegal]⟩

theorem decR (x : DataReg) : Statement (.decR x) :=
  ⟨.r, 0x09, _, rfl, rfl, rfl, by simp [Format.fields, operandsLegal]⟩

theorem decA (x : AddrReg) : Statement (.decA x) :=
  ⟨.a, 0x0A, _, rfl, rfl, rfl, by simp [Format.fields, operandsLegal]⟩

theorem andRR (x : DataReg) (y : DataReg) : Statement (.andRR x y) :=
  ⟨.rr, 0x0B, _, rfl, rfl, rfl, by simp [Format.fields, operandsLegal]⟩

theorem andRN (x : DataReg) (y : Num) : Statement (.andRN x y) :=
  ⟨.rn, 0x0C, _, rfl, rfl, rfl, by simp [Format.fields, operandsLegal]⟩

theorem orRR (x : DataReg) (y : DataReg) : Statement (.orRR x y) :=
  ⟨.rr, 0x0D, _, rfl, rfl, rfl, by simp [Format.fields, operandsLegal]⟩

theorem orRN (x : DataReg) (y : Num) : Statement (.orRN x y) :=
  ⟨.rn, 0x0E, _, rfl, rfl, rfl, by simp [Format.fields, operandsLegal]⟩

theorem xorRR (x : DataReg) (y : DataReg) : Statement (.xorRR x y) :=
  ⟨.rr, 0x0F, _, rfl, rfl, rfl, by simp [Format.fields, operandsLegal]⟩

theorem xorRN (x : DataReg) (y : Num) : Statement (.xorRN x y) :=
  ⟨.rn, 0x10, _, rfl, rfl, rfl, by simp [Format.fields, operandsLegal]⟩

theorem notR (x : DataReg) : Statement (.notR x) :=
  ⟨.r, 0x11, _, rfl, rfl, rfl, by simp [Format.fields, operandsLegal]⟩

theorem cpyRR (x : DataReg) (y : DataReg) : Statement (.cpyRR x y) :=
  ⟨.rr, 0x12, _, rfl, rfl, rfl, by simp [Format.fields, operandsLegal]⟩

theorem cpyRN (x : DataReg) (y : Num) : Statement (.cpyRN x y) :=
  ⟨.rn, 0x13, _, rfl, rfl, rfl, by simp [Format.fields, operandsLegal]⟩

theorem cpyRA (x : DataReg) (y : AddrReg) : Statement (.cpyRA x y) :=
  ⟨.ra, 0x14, _, rfl, rfl, rfl, by simp [Format.fields, operandsLegal]⟩

theorem cpyAA (x : AddrReg) (y : AddrReg) : Statement (.cpyAA x y) :=
  ⟨.aa, 0x15, _, rfl, rfl, rfl, by simp [Format.fields, operandsLegal]⟩

theorem cpyAW (x : AddrReg) (y : Addr) : Statement (.cpyAW x y) :=
  ⟨.aw, 0x16, _, rfl, rfl, rfl, by simp [Format.fields, operandsLegal]⟩

theorem cpyARR (x : AddrReg) (y : DataReg) (z : DataReg) : Statement (.cpyARR x y z) :=
  ⟨.arr, 0x17, _, rfl, rfl, rfl, by simp [Format.fields, operandsLegal]⟩

theorem cpyRRA (x : DataReg) (y : DataReg) (z : AddrReg) : Statement (.cpyRRA x y z) :=
  ⟨.rra, 0x18, _, rfl, rfl, rfl, by simp [Format.fields, operandsLegal]⟩

theorem swpRR (x : DataReg) (y : DataReg) : Statement (.swpRR x y) :=
  ⟨.rr, 0x19, _, rfl, rfl, rfl, by simp [Format.fields, operandsLegal]⟩

theorem swpAA (x : AddrReg) (y : AddrReg) : Statement (.swpAA x y) :=
  ⟨.aa, 0x1A, _, rfl, rfl, rfl, by simp [Format.fields, operandsLegal]⟩

theorem memrW (x : Addr) : Statement (.memrW x) :=
  ⟨.w, 0x1B, _, rfl, rfl, rfl, by simp [Format.fields, operandsLegal]⟩

theorem memrA (x : AddrReg) : Statement (.memrA x) :=
  ⟨.a, 0x1C, _, rfl, rfl, rfl, by simp [Format.fields, operandsLegal]⟩

theorem memwW (x : Addr) : Statement (.memwW x) :=
  ⟨.w, 0x1D, _, rfl, rfl, rfl, by simp [Format.fields, operandsLegal]⟩

theorem memwA (x : AddrReg) : Statement (.memwA x) :=
  ⟨.a, 0x1E, _, rfl, rfl, rfl, by simp [Format.fields, operandsLegal]⟩

theorem memcAA (x : AddrReg) (y : AddrReg) : Statement (.memcAA x y) :=
  ⟨.aa, 0x1F, _, rfl, rfl, rfl, by simp [Format.fields, operandsLegal]⟩

theorem ldATNN (x : AddrReg) (y : DataId) (z : Num) (u : Num) : Statement (.ldATNN x y z u) :=
  ⟨.atnn, 0x20, _, rfl, rfl, rfl, by simp [Format.fields, operandsLegal]⟩

theorem ldATRR (x : AddrReg) (y : DataId) (z : DataReg) (u : DataReg) : Statement (.ldATRR x y z u) :=
  ⟨.atrr, 0x21, _, rfl, rfl, rfl, by simp [Format.fields, operandsLegal]⟩

theorem lenTN (x : DataId) (y : Num) : Statement (.lenTN x y) :=
  ⟨.tn, 0x22, _, rfl, rfl, rfl, by simp [Format.fields, operandsLegal]⟩

theorem lenTR (x : DataId) (y : DataReg) : Statement (.lenTR x y) :=
  ⟨.tr, 0x23, _, rfl, rfl, rfl, by simp [Format.fields, operandsLegal]⟩

theorem cmpRR (x : DataReg) (y : DataReg) : Statement (.cmpRR x y) :=
  ⟨.rr, 0x24, _, rfl, rfl, rfl, by simp [Format.fields, operandsLegal]⟩

theorem cmpRN (x : DataReg) (y : Num) : Statement (.cmpRN x y) :=
  ⟨.rn, 0x25, _, rfl, rfl, rfl, by simp [Format.fields, operandsLegal]⟩

theorem cmpRA (x : DataReg) (y : AddrReg) : Statement (.cmpRA x y) :=
  ⟨.ra, 0x26, _, rfl, rfl, rfl, by simp [Format.fields, operandsLegal]⟩

theorem cmpAA (x : AddrReg) (y : AddrReg) : Statement (.cmpAA x y) :=
  ⟨.aa, 0x27, _, rfl, rfl, rfl, by simp [Format.fields, operandsLegal]⟩

theorem jmpW (x : Addr) : Statement (.jmpW x) :=
  ⟨.w, 0x28, _, rfl, rfl, rfl, by simp [Format.fields, operandsLegal]⟩

theorem jmpA (x : AddrReg) : Statement (.jmpA x) :=
  ⟨.a, 0x29, _, rfl, rfl, rfl, by simp [Format.fields, operandsLegal]⟩

theorem jeW (x : Addr) : Statement (.jeW x) :=
  ⟨.w, 0x2A, _, rfl, rfl, rfl, by simp [Format.fields, operandsLegal]⟩

theorem jeA (x : AddrReg) : Statement (.jeA x) :=
  ⟨.a, 0x2B, _, rfl, rfl, rfl, by simp [Format.fields, operandsLegal]⟩

theorem jneW (x : Addr) : Statement (.jneW x) :=
  ⟨.w, 0x2C, _, rfl, rfl, rfl, by simp [Format.fields, operandsLegal]⟩

theorem jneA (x : AddrReg) : Statement (.jneA x) :=
  ⟨.a, 0x2D, _, rfl, rfl, rfl, by simp [Format.fields, operandsLegal]⟩

theorem jlW (x : Addr) : Statement (.jlW x) :=
  ⟨.w, 0x2E, _, rfl, rfl, rfl, by simp [Format.fields, operandsLegal]⟩

theorem jlA (x : AddrReg) : Statement (.jlA x) :=
  ⟨.a, 0x2F, _, rfl, rfl, rfl, by simp [Format.fields, operandsLegal]⟩

theorem jgW (x : Addr) : Statement (.jgW x) :=
  ⟨.w, 0x30, _, rfl, rfl, rfl, by simp [Format.fields, operandsLegal]⟩

theorem jgA (x : AddrReg) : Statement (.jgA x) :=
  ⟨.a, 0x31, _, rfl, rfl, rfl, by simp [Format.fields, operandsLegal]⟩

theorem overW (x : Addr) : Statement (.overW x) :=
  ⟨.w, 0x32, _, rfl, rfl, rfl, by simp [Format.fields, operandsLegal]⟩

theorem overA (x : AddrReg) : Statement (.overA x) :=
  ⟨.a, 0x33, _, rfl, rfl, rfl, by simp [Format.fields, operandsLegal]⟩

theorem noverW (x : Addr) : Statement (.noverW x) :=
  ⟨.w, 0x34, _, rfl, rfl, rfl, by simp [Format.fields, operandsLegal]⟩

theorem noverA (x : AddrReg) : Statement (.noverA x) :=
  ⟨.a, 0x35, _, rfl, rfl, rfl, by simp [Format.fields, operandsLegal]⟩

theorem callW (x : Addr) : Statement (.callW x) :=
  ⟨.w, 0x36, _, rfl, rfl, rfl, by simp [Format.fields, operandsLegal]⟩

theorem callA (x : AddrReg) : Statement (.callA x) :=
  ⟨.a, 0x37, _, rfl, rfl, rfl, by simp [Format.fields, operandsLegal]⟩

theorem ret : Statement (.ret) :=
  ⟨.bare, 0x38, _, rfl, rfl, rfl, by simp [Format.fields, operandsLegal]⟩

theorem pushR (x : DataReg) : Statement (.pushR x) :=
  ⟨.r, 0x39, _, rfl, rfl, rfl, by simp [Format.fields, operandsLegal]⟩

theorem pushN (x : Num) : Statement (.pushN x) :=
  ⟨.n, 0x3A, _, rfl, rfl, rfl, by simp [Format.fields, operandsLegal]⟩

theorem pushA (x : AddrReg) : Statement (.pushA x) :=
  ⟨.a, 0x3B, _, rfl, rfl, rfl, by simp [Format.fields, operandsLegal]⟩

theorem popR (x : DataReg) : Statement (.popR x) :=
  ⟨.r, 0x3C, _, rfl, rfl, rfl, by simp [Format.fields, operandsLegal]⟩

theorem popA (x : AddrReg) : Statement (.popA x) :=
  ⟨.a, 0x3D, _, rfl, rfl, rfl, by simp [Format.fields, operandsLegal]⟩

theorem argRN (x : DataReg) (y : Num) : Statement (.argRN x y) :=
  ⟨.rn, 0x3E, _, rfl, rfl, rfl, by simp [Format.fields, operandsLegal]⟩

theorem argAN (x : AddrReg) (y : Num) : Statement (.argAN x y) :=
  ⟨.an, 0x3F, _, rfl, rfl, rfl, by simp [Format.fields, operandsLegal]⟩

theorem prtR (x : DataReg) : Statement (.prtR x) :=
  ⟨.r, 0x40, _, rfl, rfl, rfl, by simp [Format.fields, operandsLegal]⟩

theorem prtN (x : Num) : Statement (.prtN x) :=
  ⟨.n, 0x41, _, rfl, rfl, rfl, by simp [Format.fields, operandsLegal]⟩

theorem prtcR (x : DataReg) : Statement (.prtcR x) :=
  ⟨.r, 0x42, _, rfl, rfl, rfl, by simp [Format.fields, operandsLegal]⟩

theorem prtcN (x : Num) : Statement (.prtcN x) :=
  ⟨.n, 0x43, _, rfl, rfl, rfl, by simp [Format.fields, operandsLegal]⟩

theorem prtsS (x : StringId) : Statement (.prtsS x) :=
  ⟨.s, 0x44, _, rfl, rfl, rfl, by simp [Format.fields, operandsLegal]⟩

theorem prtln : Statement (.prtln) :=
  ⟨.bare, 0x45, _, rfl, rfl, rfl, by simp [Format.fields, operandsLegal]⟩

theorem prtdA (x : AddrReg) : Statement (.prtdA x) :=
  ⟨.a, 0x46, _, rfl, rfl, rfl, by simp [Format.fields, operandsLegal]⟩

theorem mempA (x : AddrReg) : Statement (.mempA x) :=
  ⟨.a, 0x47, _, rfl, rfl, rfl, by simp [Format.fields, operandsLegal]⟩

theorem debug : Statement (.debug) :=
  ⟨.bare, 0x48, _, rfl, rfl, rfl, by simp [Format.fields, operandsLegal]⟩

theorem fopenN (x : Num) : Statement (.fopenN x) :=
  ⟨.n, 0x49, _, rfl, rfl, rfl, by simp [Format.fields, operandsLegal]⟩

theorem filerNW (x : Num) (y : Addr) : Statement (.filerNW x y) :=
  ⟨.nw, 0x4A, _, rfl, rfl, rfl, by simp [Format.fields, operandsLegal]⟩

theorem filerNA (x : Num) (y : AddrReg) : Statement (.filerNA x y) :=
  ⟨.na, 0x4B, _, rfl, rfl, rfl, by simp [Format.fields, operandsLegal]⟩

theorem filewNW (x : Num) (y : Addr) : Statement (.filewNW x y) :=
  ⟨.nw, 0x4C, _, rfl, rfl, rfl, by simp [Format.fields, operandsLegal]⟩

theorem filewNA (x : Num) (y : AddrReg) : Statement (.filewNA x y) :=
  ⟨.na, 0x4D, _, rfl, rfl, rfl, by simp [Format.fields, operandsLegal]⟩

theorem filewNR (x : Num) (y : DataReg) : Statement (.filewNR x y) :=
  ⟨.nr, 0x4E, _, rfl, rfl, rfl, by simp [Format.fields, operandsLegal]⟩

theorem filewNN (x : Num) (y : Num) : Statement (.filewNN x y) :=
  ⟨.nn, 0x4F, _, rfl, rfl, rfl, by simp [Format.fields, operandsLegal]⟩

theorem fskipNR (x : Num) (y : DataReg) : Statement (.fskipNR x y) :=
  ⟨.nr, 0x50, _, rfl, rfl, rfl, by simp [Format.fields, operandsLegal]⟩

theorem fseekN (x : Num) : Statement (.fseekN x) :=
  ⟨.n, 0x51, _, rfl, rfl, rfl, by simp [Format.fields, operandsLegal]⟩

theorem fchkNW (x : Num) (y : Addr) : Statement (.fchkNW x y) :=
  ⟨.nw, 0x52, _, rfl, rfl, rfl, by simp [Format.fields, operandsLegal]⟩

theorem fchkNA (x : Num) (y : AddrReg) : Statement (.fchkNA x y) :=
  ⟨.na, 0x53, _, rfl, rfl, rfl, by simp [Format.fields, operandsLegal]⟩

theorem ipollW (x : Addr) : Statement (.ipollW x) :=
  ⟨.w, 0x54, _, rfl, rfl, rfl, by simp [Format.fields, operandsLegal]⟩

theorem ipollA (x : AddrReg) : Statement (.ipollA x) :=
  ⟨.a, 0x55, _, rfl, rfl, rfl, by simp [Format.fields, operandsLegal]⟩

theorem rchrR (x : DataReg) : Statement (.rchrR x) :=
  ⟨.r, 0x56, _, rfl, rfl, rfl, by simp [Format.fields, operandsLegal]⟩

theorem rstrW (x : Addr) : Statement (.rstrW x) :=
  ⟨.w, 0x57, _, rfl, rfl, rfl, by simp [Format.fields, operandsLegal]⟩

theorem rstrA (x : AddrReg) : Statement (.rstrA x) :=
  ⟨.a, 0x58, _, rfl, rfl, rfl, by simp [Format.fields, operandsLegal]⟩

theorem nop : Statement (.nop) :=
  ⟨.bare, 0x59, _, rfl, rfl, rfl, by simp [Format.fields, operandsLegal]⟩

theorem halt : Statement (.halt) :=
  ⟨.bare, 0x5A, _, rfl, rfl, rfl, by simp [Format.fields, operandsLegal]⟩

theorem randR (x : DataReg) : Statement (.randR x) :=
  ⟨.r, 0x5B, _, rfl, rfl, rfl, by simp [Format.fields, operandsLegal]⟩

theorem seedR (x : DataReg) : Statement (.seedR x) :=
  ⟨.r, 0x5C, _, rfl, rfl, rfl, by simp [Format.fields, operandsLegal]⟩

theorem time : Statement (.time) :=
  ⟨.bare, 0x5D, _, rfl, rfl, rfl, by simp [Format.fields, operandsLegal]⟩

end Sys2Proof.Laws.EncodingShape
end

