-- ==== Sys2Proof/Tests/Slice0.lean ====
section
/-! SUPPORT. Tests: what well-formedness refuses, the decoder on words written out from 30_encoding.md, the vectors of
95_test_vectors.md (each test names its vector or rule), and a witness for the hypotheses of every obligation. -/
set_option Elab.async false
namespace Sys2Proof.Machine

/-! ### decoding: one word for every constructor, opcode bytes from 30_encoding.md R86, operands by R81 and R82 -/

/-- The bytes decode to the instruction, with nothing left over. -/
def reads (bs : List Byte) (i : Instr) : Bool :=
  match decode bs with
  | .ok (j, []) => decide (j = i)
  | _ => false

theorem test_decode_alu : (
    reads [0x01, 0x00, 0x01] (.addRR .acc .d0) &&
    reads [0x02, 0x02, 0x07] (.addRN .d1 0x07) &&
    reads [0x03, 0x03, 0x00] (.addRA .d2 .a0) &&
    reads [0x04, 0x04, 0x00] (.subRR .d3 .acc) &&
    reads [0x05, 0x01, 0xFF] (.subRN .d0 0xFF) &&
    reads [0x06, 0x02, 0x01] (.subRA .d1 .a1) &&
    reads [0x07, 0x03] (.incR .d2) &&
    reads [0x08, 0x00] (.incA .a0) &&
    reads [0x09, 0x04] (.decR .d3) &&
    reads [0x0A, 0x01] (.decA .a1) &&
    reads [0x0B, 0x00, 0x01] (.andRR .acc .d0) &&
    reads [0x0C, 0x02, 0x80] (.andRN .d1 0x80) &&
    reads [0x0D, 0x03, 0x04] (.orRR .d2 .d3) &&
    reads [0x0E, 0x00, 0x2C] (.orRN .acc 0x2C) &&
    reads [0x0F, 0x01, 0x02] (.xorRR .d0 .d1) &&
    reads [0x10, 0x03, 0x00] (.xorRN .d2 0x00) &&
    reads [0x11, 0x04] (.notR .d3)) = true := by decide

theorem test_decode_data_movement : (
    reads [0x12, 0x00, 0x01] (.cpyRR .acc .d0) &&
    reads [0x13, 0x02, 0x07] (.cpyRN .d1 0x07) &&
    reads [0x14, 0x03, 0x00] (.cpyRA .d2 .a0) &&
    reads [0x15, 0x01, 0x00] (.cpyAA .a1 .a0) &&
    reads [0x16, 0x01, 0x12, 0x34] (.cpyAW .a1 0x1234) &&
    reads [0x17, 0x00, 0x04, 0x00] (.cpyARR .a0 .d3 .acc) &&
    reads [0x18, 0x01, 0x02, 0x01] (.cpyRRA .d0 .d1 .a1) &&
    reads [0x19, 0x03, 0x04] (.swpRR .d2 .d3) &&
    reads [0x1A, 0x00, 0x01] (.swpAA .a0 .a1) &&
    reads [0x1B, 0x00, 0xFF] (.memrW 0x00FF) &&
    reads [0x1C, 0x00] (.memrA .a0) &&
    reads [0x1D, 0xFF, 0x00] (.memwW 0xFF00) &&
    reads [0x1E, 0x01] (.memwA .a1) &&
    reads [0x1F, 0x00, 0x01] (.memcAA .a0 .a1) &&
    reads [0x20, 0x00, 0x0B, 0x07, 0xFF, 0x80] (.ldATNN .a0 0x0B07 0xFF 0x80) &&
    reads [0x21, 0x01, 0x80, 0x01, 0x00, 0x01] (.ldATRR .a1 0x8001 .acc .d0) &&
    reads [0x22, 0x12, 0x34, 0x2C] (.lenTN 0x1234 0x2C) &&
    reads [0x23, 0x00, 0xFF, 0x02] (.lenTR 0x00FF .d1)) = true := by decide

theorem test_decode_control : (
    reads [0x24, 0x03, 0x04] (.cmpRR .d2 .d3) &&
    reads [0x25, 0x00, 0x00] (.cmpRN .acc 0x00) &&
    reads [0x26, 0x01, 0x00] (.cmpRA .d0 .a0) &&
    reads [0x27, 0x01, 0x00] (.cmpAA .a1 .a0) &&
    reads [0x28, 0xFF, 0x00] (.jmpW 0xFF00) &&
    reads [0x29, 0x01] (.jmpA .a1) &&
    reads [0x2A, 0x0B, 0x07] (.jeW 0x0B07) &&
    reads [0x2B, 0x00] (.jeA .a0) &&
    reads [0x2C, 0x80, 0x01] (.jneW 0x8001) &&
    reads [0x2D, 0x01] (.jneA .a1) &&
    reads [0x2E, 0x12, 0x34] (.jlW 0x1234) &&
    reads [0x2F, 0x00] (.jlA .a0) &&
    reads [0x30, 0x00, 0xFF] (.jgW 0x00FF) &&
    reads [0x31, 0x01] (.jgA .a1) &&
    reads [0x32, 0xFF, 0x00] (.overW 0xFF00) &&
    reads [0x33, 0x00] (.overA .a0) &&
    reads [0x34, 0x0B, 0x07] (.noverW 0x0B07) &&
    reads [0x35, 0x01] (.noverA .a1) &&
    reads [0x36, 0x80, 0x01] (.callW 0x8001) &&
    reads [0x37, 0x00] (.callA .a0) &&
    reads [0x38] (.ret)) = true := by decide

theorem test_decode_stack : (
    reads [0x39, 0x02] (.pushR .d1) &&
    reads [0x3A, 0x07] (.pushN 0x07) &&
    reads [0x3B, 0x01] (.pushA .a1) &&
    reads [0x3C, 0x03] (.popR .d2) &&
    reads [0x3D, 0x00] (.popA .a0) &&
    reads [0x3E, 0x04, 0xFF] (.argRN .d3 0xFF) &&
    reads [0x3F, 0x01, 0x80] (.argAN .a1 0x80)) = true := by decide

theorem test_decode_output : (
    reads [0x40, 0x00] (.prtR .acc) &&
    reads [0x41, 0x2C] (.prtN 0x2C) &&
    reads [0x42, 0x01] (.prtcR .d0) &&
    reads [0x43, 0x00] (.prtcN 0x00) &&
    reads [0x44, 0x12, 0x34] (.prtsS 0x1234) &&
    reads [0x45] (.prtln) &&
    reads [0x46, 0x00] (.prtdA .a0) &&
    reads [0x47, 0x01] (.mempA .a1) &&
    reads [0x48] (.debug)) = true := by decide

theorem test_decode_files : (
    reads [0x49, 0x07] (.fopenN 0x07) &&
    reads [0x4A, 0xFF, 0x00, 0xFF] (.filerNW 0xFF 0x00FF) &&
    reads [0x4B, 0x80, 0x00] (.filerNA 0x80 .a0) &&
    reads [0x4C, 0x2C, 0xFF, 0x00] (.filewNW 0x2C 0xFF00) &&
    reads [0x4D, 0x00, 0x01] (.filewNA 0x00 .a1) &&
    reads [0x4E, 0x07, 0x02] (.filewNR 0x07 .d1) &&
    reads [0x4F, 0xFF, 0x80] (.filewNN 0xFF 0x80) &&
    reads [0x50, 0x2C, 0x03] (.fskipNR 0x2C .d2) &&
    reads [0x51, 0x00] (.fseekN 0x00) &&
    reads [0x52, 0x07, 0x0B, 0x07] (.fchkNW 0x07 0x0B07) &&
    reads [0x53, 0xFF, 0x00] (.fchkNA 0xFF .a0)) = true := by decide

theorem test_decode_input_misc : (
    reads [0x54, 0x80, 0x01] (.ipollW 0x8001) &&
    reads [0x55, 0x01] (.ipollA .a1) &&
    reads [0x56, 0x04] (.rchrR .d3) &&
    reads [0x57, 0x12, 0x34] (.rstrW 0x1234) &&
    reads [0x58, 0x00] (.rstrA .a0) &&
    reads [0x59] (.nop) &&
    reads [0x5A] (.halt) &&
    reads [0x5B, 0x00] (.randR .acc) &&
    reads [0x5C, 0x01] (.seedR .d0) &&
    reads [0x5D] (.time)) = true := by decide

/-! ### the spec's vectors (95_test_vectors.md): one step from the reset state with the program and fields named -/

/-- The reset state with the program `ops`. -/
def start (ops : List Byte) : State := { State.reset with ops := ops }

/-- The reset state with the program `ops` and the data blob of E5. -/
def startE5 (ops : List Byte) : State := { start ops with data := [0x02, 0x03, 0x02, 0x61, 0x62, 0x63, 0x64, 0x65] }

/-- The reset state with the program `ops` and one host file. -/
def startFile (ops : List Byte) : State :=
  { start ops with host := { HostSide.fresh with files := [⟨[0x41, 0x42], true⟩] } }

/-- The state, driven by the debug port, with an `f` frame to read. -/
def State.onPort (s : State) : State := { s with mode := .piped, host := { s.host with inbox := [0x66] } }

/-- One step answers a next state with the property. -/
def gives (s : State) (p : State → Bool) : Bool :=
  match step s with
  | .next t => p t
  | _ => false

/-- One step traps with the kind and leaves PC, the registers, SP and MEM. -/
def traps (s : State) (k : TrapKind) : Bool :=
  gives s fun t => t.status = .crashed k && t.dump = s.dump && t.mem = s.mem

theorem test_v1_to_v12 : (
    gives (start []) (fun t => t.status = .halted .endOfOps) &&
    traps (start [0x00]) .badOpcode && traps (start [0x5E]) .badOpcode && traps (start [0xFF]) .badOpcode &&
    traps (start [0x13, 0x01]) .truncatedInstruction && traps (start [0x13, 0x05, 0x07]) .badRegister &&
    traps (start [0x15, 0x00, 0x02]) .badRegister && traps (start [0x1F, 0x07]) .truncatedInstruction &&
    gives (start [0x28, 0x00, 0x03]) (fun t => t.pc = 3 && gives t fun u => u.status = .halted .endOfOps) &&
    gives (start [0x28, 0x00, 0x04]) (fun t => traps t .pcOutOfRange) &&
    gives (start [0x28, 0x00, 0x01, 0x00, 0x59]) (fun t => t.pc = 1 && traps t .badOpcode)) = true := by decide

theorem test_v20_add : gives { start [0x01, 0x01, 0x02] with d0 := 0xFF, d1 := 0x01 }
    (fun t => t.acc = 0x00 && t.ov && t.pc = 3) = true := by decide
theorem test_v21_add : gives { start [0x01, 0x01, 0x02] with d0 := 0x80, d1 := 0x7F }
    (fun t => t.acc = 0xFF && !t.ov) = true := by decide
theorem test_v22_add_n : gives { start [0x02, 0x00, 0x00] with ov := true }
    (fun t => t.acc = 0 && !t.ov) = true := by decide
theorem test_v23_add_n : gives { start [0x02, 0x01, 0x64] with d0 := 200 }
    (fun t => t.acc = 0x2C && t.ov) = true := by decide
theorem test_v24_add_a : gives { start [0x03, 0x02, 0x00] with data := [0x05], d1 := 0xFC }
    (fun t => t.acc = 0x01 && t.ov) = true := by decide
theorem test_v25_add_a : traps { start [0x03, 0x02, 0x00] with data := [0x05], a0 := 1 } .dataOutOfRange = true := by
  decide
theorem test_v26_sub : gives { start [0x04, 0x01, 0x02] with d1 := 1 } (fun t => t.acc = 0xFF && t.ov) = true := by
  decide
theorem test_v27_sub_n : gives { start [0x05, 0x01, 0x05] with d0 := 5 } (fun t => t.acc = 0 && !t.ov) = true := by
  decide
theorem test_v28_sub_a : gives { start [0x06, 0x00, 0x01] with data := [0x02], acc := 1 }
    (fun t => t.acc = 0xFF && t.ov) = true := by decide
theorem test_v29_inc : gives { start [0x07, 0x00] with acc := 0xFF } (fun t => t.acc = 0x00 && t.ov) = true := by decide
theorem test_v30_inc : gives { start [0x07, 0x01] with d0 := 9 }
    (fun t => t.acc = 10 && t.d0 = 9 && !t.ov) = true := by decide
theorem test_v31_inc_a : gives { start [0x08, 0x01] with a1 := 0xFFFF, acc := 7 }
    (fun t => t.a1 = 0x0000 && t.ov && t.acc = 7) = true := by decide
theorem test_v32_dec : gives { start [0x09, 0x02] with d1 := 1 }
    (fun t => t.acc = 0 && t.d1 = 1 && !t.ov) = true := by decide
theorem test_v33_dec : gives (start [0x09, 0x04]) (fun t => t.acc = 0xFF && t.ov) = true := by decide
theorem test_v34_dec_a : gives (start [0x0A, 0x00]) (fun t => t.a0 = 0xFFFF && t.ov) = true := by decide
theorem test_v35_dec_a : gives { start [0x0A, 0x00] with a0 := 0x0100 }
    (fun t => t.a0 = 0x00FF && !t.ov) = true := by decide
theorem test_v36_and : gives { start [0x0B, 0x01, 0x02] with d0 := 0xF0, d1 := 0x3C, ov := true }
    (fun t => t.acc = 0x30 && t.ov) = true := by decide
theorem test_v37_and_n : gives { start [0x0C, 0x01, 0x00] with d0 := 0xAB } (fun t => t.acc = 0) = true := by decide
theorem test_v38_or : gives { start [0x0D, 0x01, 0x02] with d0 := 0xF0, d1 := 0x0F }
    (fun t => t.acc = 0xFF) = true := by decide
theorem test_v39_or_n : gives { start [0x0E, 0x02, 0x01] with d1 := 0x40 } (fun t => t.acc = 0x41) = true := by decide
theorem test_v40_xor : gives { start [0x0F, 0x01, 0x01] with d0 := 0x77, acc := 1 }
    (fun t => t.acc = 0) = true := by decide
theorem test_v41_xor_n : gives { start [0x10, 0x00, 0xFF] with acc := 0x55 } (fun t => t.acc = 0xAA) = true := by decide
theorem test_v42_not : gives { start [0x11, 0x00] with acc := 0x5A } (fun t => t.acc = 0xA5) = true := by decide
theorem test_v43_not : gives (start [0x11, 0x03]) (fun t => t.acc = 0xFF && t.d2 = 0) = true := by decide
theorem test_v44_bad_register : traps (start [0x01, 0x01, 0x05]) .badRegister = true := by decide

theorem test_v50_cpy : gives { start [0x12, 0x00, 0x03] with d2 := 42 } (fun t => t.acc = 42) = true := by decide
theorem test_cpy_n : gives (start [0x13, 0x01, 0xC8]) (fun t => t.d0 = 200 && t.pc = 3) = true := by decide
theorem test_v51_cpy_ra : gives { startE5 [0x14, 0x01, 0x01] with a1 := 5 } (fun t => t.d0 = 0x63) = true := by decide
theorem test_cpy_aa : gives { start [0x15, 0x01, 0x00] with a0 := 0x1234 }
    (fun t => t.a1 = 0x1234 && t.a0 = 0x1234) = true := by decide
theorem test_v52_cpy_aw : gives (start [0x16, 0x00, 0xFF, 0xFF]) (fun t => t.a0 = 0xFFFF) = true := by decide
theorem test_v53_cpy_arr : gives { start [0x17, 0x01, 0x01, 0x02] with d0 := 0x12, d1 := 0x34 }
    (fun t => t.a1 = 0x1234) = true := by decide
theorem test_v54_cpy_rra : gives { start [0x18, 0x03, 0x04, 0x00] with a0 := 0xBEEF }
    (fun t => t.d2 = 0xBE && t.d3 = 0xEF) = true := by decide
theorem test_v55_cpy_rra : gives { start [0x18, 0x03, 0x03, 0x00] with a0 := 0xBEEF }
    (fun t => t.d2 = 0xEF) = true := by decide
theorem test_v56_swp : gives { start [0x19, 0x02, 0x02] with d1 := 9 } (fun t => t.d1 = 9) = true := by decide
theorem test_swp_aa : gives { start [0x1A, 0x00, 0x01] with a0 := 1, a1 := 2 }
    (fun t => t.a0 = 2 && t.a1 = 1) = true := by decide
theorem test_v57_memr : gives { start [0x1B, 0xFF, 0xFE] with mem := [(0xFFFE, 7)] } (fun t => t.acc = 7) = true := by
  decide
theorem test_v58_memr : traps (start [0x1B, 0xFF, 0xFF]) .memOutOfRange = true := by decide
theorem test_memr_a : gives { start [0x1C, 0x01] with a1 := 0x0200, mem := [(0x0200, 7)] }
    (fun t => t.acc = 7) = true := by decide
theorem test_memw : gives { start [0x1D, 0x01, 0x00] with acc := 42, mem := [(0, 1), (0x0200, 7)] }
    (fun t => t.mem = [(0, 1), (0x0100, 42), (0x0200, 7)]) = true := by decide
theorem test_v59_memw_a : traps { start [0x1E, 0x01] with a1 := 0xFFFF } .memOutOfRange = true := by decide
theorem test_memw_a_zero : gives { start [0x1E, 0x01] with a1 := 0x0200, mem := [(0x0200, 7)] }
    (fun t => t.mem = []) = true := by decide
theorem test_v60_memc : gives { startE5 [0x1F, 0x00, 0x01] with a0 := 3, a1 := 0x0200, acc := 3 }
    (fun t => t.mem = [(0x0200, 0x61), (0x0201, 0x62), (0x0202, 0x63)] && t.acc = 3) = true := by decide
theorem test_v61_to_v63_memc : (
    traps { startE5 [0x1F, 0x00, 0x01] with a0 := 8 } .dataOutOfRange &&
    traps { startE5 [0x1F, 0x00, 0x01] with a1 := 0xFFFE, acc := 2 } .memOutOfRange &&
    traps { startE5 [0x1F, 0x00, 0x01] with a0 := 7, a1 := 0xFFFE, acc := 2 } .dataOutOfRange) = true := by decide

/-- LD A0 with the table of E5 answers the offset. -/
def ldGives (o i : Byte) (a : Word) : Bool := gives (startE5 [0x20, 0x00, 0x00, 0x00, o, i]) fun t => t.a0 = a

/-- LD A0 with the table of E5 traps. -/
def ldTraps (o i : Byte) : Bool := traps (startE5 [0x20, 0x00, 0x00, 0x00, o, i]) .badLdIndex

theorem test_e5_ld : (ldGives 0 0 0 && ldGives 0 1 1 && ldGives 0 2 2 && ldGives 1 0 3 && ldGives 1 2 5 &&
    ldGives 2 0 6 && ldGives 2 1 7 && ldTraps 0 3 && ldTraps 1 3 && ldTraps 2 2 && ldTraps 3 0 &&
    traps (startE5 [0x20, 0x00, 0x00, 0x08, 0x00, 0x00]) .dataOutOfRange) = true := by decide
theorem test_v69_ld_rr : gives { startE5 [0x21, 0x01, 0x00, 0x00, 0x01, 0x02] with d0 := 1, d1 := 2 }
    (fun t => t.a1 = 5) = true := by decide
theorem test_v70_v71_v72_len : (
    gives (startE5 [0x22, 0x00, 0x00, 0x00]) (fun t => t.acc = 2) &&
    gives (startE5 [0x22, 0x00, 0x00, 0x01]) (fun t => t.acc = 3) &&
    traps (startE5 [0x22, 0x00, 0x00, 0x03]) .badLdIndex) = true := by decide
theorem test_v73_len_r : gives { startE5 [0x23, 0x00, 0x00, 0x00] with acc := 2 } (fun t => t.acc = 2) = true := by
  decide

theorem test_v80_cmp : gives { start [0x24, 0x01, 0x02] with d1 := 0xFF } (fun t => t.acc = 1) = true := by decide
theorem test_v81_cmp : gives { start [0x24, 0x01, 0x02] with d0 := 0xFF } (fun t => t.acc = 2) = true := by decide
theorem test_v83_cmp_aa : gives { start [0x27, 0x00, 0x01] with a0 := 0x0100, a1 := 0x00FF }
    (fun t => t.acc = 2) = true := by decide
theorem test_v84_cmp_ra : traps (start [0x26, 0x02, 0x00]) .dataOutOfRange = true := by decide
theorem test_cmp_ra : gives { startE5 [0x26, 0x02, 0x00] with d1 := 3, a0 := 1, acc := 9 }
    (fun t => t.acc = 0) = true := by decide
theorem test_v85_cmp_rn : gives { start [0x25, 0x01, 0x01] with d0 := 1, ov := true, acc := 7 }
    (fun t => t.acc = 0 && t.ov) = true := by decide
theorem test_jmp_a : gives { start [0x29, 0x01] with a1 := 0x0040 } (fun t => t.pc = 0x0040) = true := by decide
theorem test_je : (
    gives (start [0x2A, 0x00, 0x28]) (fun t => t.pc = 0x0028) &&
    gives { start [0x2A, 0x00, 0x28] with acc := 2 } (fun t => t.pc = 3) &&
    gives { start [0x2B, 0x01] with a1 := 0x0028 } (fun t => t.pc = 0x0028) &&
    gives { start [0x2B, 0x01] with a1 := 0x0028, acc := 1 } (fun t => t.pc = 2)) = true := by decide
theorem test_v88_jne : (
    gives { start [0x2C, 0x00, 0x10] with acc := 7 } (fun t => t.pc = 0x0010) &&
    gives (start [0x2C, 0x00, 0x10]) (fun t => t.pc = 3) &&
    gives { start [0x2D, 0x00] with acc := 7, a0 := 9 } (fun t => t.pc = 9) &&
    gives { start [0x2D, 0x00] with a0 := 9 } (fun t => t.pc = 2)) = true := by decide
theorem test_v86_v87_jl : (
    gives { start [0x2E, 0x00, 0x10] with acc := 1 } (fun t => t.pc = 0x0010) &&
    gives { start [0x2E, 0x00, 0x10] with acc := 2 } (fun t => t.pc = 3) &&
    gives { start [0x2F, 0x00] with acc := 1, a0 := 9 } (fun t => t.pc = 9) &&
    gives { start [0x2F, 0x00] with acc := 0, a0 := 9 } (fun t => t.pc = 2)) = true := by decide
theorem test_v89_jg : (
    gives { start [0x30, 0x00, 0x10] with acc := 2 } (fun t => t.pc = 0x0010) &&
    gives { start [0x30, 0x00, 0x10] with acc := 3 } (fun t => t.pc = 3) &&
    gives { start [0x31, 0x00] with acc := 2, a0 := 0x0040 } (fun t => t.pc = 0x0040) &&
    gives { start [0x31, 0x00] with acc := 1, a0 := 0x0040 } (fun t => t.pc = 2)) = true := by decide
theorem test_v90_over : (
    gives { start [0x32, 0x00, 0x20] with ov := true } (fun t => t.pc = 0x0020 && t.ov) &&
    gives (start [0x32, 0x00, 0x20]) (fun t => t.pc = 3) &&
    gives { start [0x33, 0x00] with ov := true, a0 := 9 } (fun t => t.pc = 9) &&
    gives { start [0x33, 0x00] with a0 := 9 } (fun t => t.pc = 2)) = true := by decide
theorem test_v91_nover : (
    gives { start [0x34, 0x00, 0x20] with ov := true } (fun t => t.pc = 3) &&
    gives (start [0x34, 0x00, 0x20]) (fun t => t.pc = 0x0020) &&
    gives { start [0x35, 0x00] with ov := true, a0 := 9 } (fun t => t.pc = 2) &&
    gives { start [0x35, 0x00] with a0 := 9 } (fun t => t.pc = 9)) = true := by decide
theorem test_v92_call : traps { start [0x36, 0x01, 0x00] with sp := 1 } .stackOverflow = true := by decide
theorem test_v93_call : gives { start [0x36, 0x01, 0x00] with sp := 2 } (fun t =>
    t.mem = [(0, 0x03)] && t.sp = 0 && t.fp = 0 && t.pc = 0x0100) = true := by decide
theorem test_r202_call_a : gives { start [0x37, 0x00] with a0 := 0x0100 } (fun t =>
    t.mem = [(0xFFFD, 0x02)] && t.sp = 0xFFFD && t.fp = 0xFFFD && t.pc = 0x0100) = true := by decide
theorem test_v94_ret : traps { start [0x38] with sp := 0xFFFE } .stackUnderflow = true := by decide
theorem test_v95_ret : gives { start [0x38] with sp := 0xFFFD, fp := 0x1000, mem := [(0xFFFD, 0x34), (0xFFFE, 0x12)] }
    (fun t => t.pc = 0x1234 && t.sp = 0xFFFF && t.fp = 0x1000) = true := by decide

theorem test_v100_push : traps { start [0x39, 0x01] with sp := 0 } .stackOverflow = true := by decide
theorem test_push : gives { start [0x39, 0x01] with d0 := 5 } (fun t =>
    t.mem = [(0xFFFE, 5)] && t.sp = 0xFFFE && t.fp = 0xFFFF) = true := by decide
theorem test_v101_push_n : gives { start [0x3A, 0x09] with sp := 1 } (fun t => t.mem = [(0, 9)] && t.sp = 0) = true := by
  decide
theorem test_v102_push_a : traps { start [0x3B, 0x00] with sp := 1 } .stackOverflow = true := by decide
theorem test_v103_push_a : gives { start [0x3B, 0x00] with a0 := 0x1234 } (fun t =>
    t.mem = [(0xFFFD, 0x34), (0xFFFE, 0x12)] && t.sp = 0xFFFD) = true := by decide
theorem test_v104_pop : traps (start [0x3C, 0x01]) .stackUnderflow = true := by decide
theorem test_pop : gives { start [0x3C, 0x01] with sp := 0xFFFE, mem := [(0xFFFE, 5)] } (fun t =>
    t.d0 = 5 && t.sp = 0xFFFF && t.mem = [(0xFFFE, 5)]) = true := by decide
theorem test_v105_pop_a : traps { start [0x3D, 0x00] with sp := 0xFFFE } .stackUnderflow = true := by decide
theorem test_v106_pop_a : gives { start [0x3D, 0x00] with sp := 0xFFFD, mem := [(0xFFFD, 0x34), (0xFFFE, 0x12)] }
    (fun t => t.a0 = 0x1234 && t.sp = 0xFFFF) = true := by decide
theorem test_v107_arg : traps (start [0x3E, 0x01, 0x00]) .memOutOfRange = true := by decide
theorem test_v108_arg : gives { start [0x3E, 0x01, 0x00] with fp := 0xFFFE, mem := [(0xFFFE, 4)] }
    (fun t => t.d0 = 4) = true := by decide
theorem test_v109_arg_a : gives { start [0x3F, 0x00, 0x00] with fp := 0xFFFD, mem := [(0xFFFD, 0x34), (0xFFFE, 0x12)] }
    (fun t => t.a0 = 0x1234) = true := by decide
theorem test_v110_arg_a : traps { start [0x3F, 0x00, 0x01] with fp := 0xFFFD } .memOutOfRange = true := by decide

/-- One step sends the bytes to stdout and goes on. -/
def prints (s : State) (bs : List Byte) : Bool :=
  gives s fun t => t.host.stdout.taken = bs && t.status = .running

theorem test_v120_v122_prt_n : (prints (start [0x41, 0x00]) [0x30] &&
    prints (start [0x41, 0xFF]) [0x32, 0x35, 0x35]) = true := by decide
theorem test_v121_prt : prints { start [0x40, 0x00] with acc := 100 } [0x31, 0x30, 0x30] = true := by decide
theorem test_prtc : prints { start [0x42, 0x01] with d0 := 0x63 } [0x63] = true := by decide
theorem test_v123_prtc_n : prints (start [0x43, 0x0A]) [0x0A] = true := by decide
theorem test_v124_prts : (prints { start [0x44, 0x00, 0x00] with str := [0x00] } [] &&
    prints { start [0x44, 0x00, 0x00] with str := [0x02, 0x68, 0x69] } [0x68, 0x69]) = true := by decide
theorem test_v125_v126_prts : (
    traps { start [0x44, 0x00, 0x01] with str := [0x00] } .stringOutOfRange &&
    traps { start [0x44, 0x00, 0x00] with str := [0x05, 0x41] } .stringOutOfRange) = true := by decide
theorem test_v127_prtln : prints (start [0x45]) [0x0A] = true := by decide
theorem test_v128_v129_prtd : (traps { startE5 [0x46, 0x00] with a0 := 8 } .dataOutOfRange &&
    prints (startE5 [0x46, 0x00]) []) = true := by decide
theorem test_prtd : prints { startE5 [0x46, 0x00] with a0 := 6, acc := 2 } [0x64, 0x65] = true := by decide
theorem test_v130_memp : prints { start [0x47, 0x00] with a0 := 0xFFFE, acc := 1, mem := [(0xFFFE, 0x21)] }
    [0x21] = true := by decide
theorem test_v131_memp : traps { start [0x47, 0x00] with a0 := 0xFFFE, acc := 2 } .memOutOfRange = true := by decide
theorem test_v132_broken : gives { start [0x40, 0x00] with
      acc := 123, host := { HostSide.fresh with stdout := ⟨[], some 0⟩ } }
    (fun t => t.status = .crashed .ioBroken && t.host.stdout.taken = [] && t.pc = 0) = true := by decide
theorem test_v133_debug : gives (start [0x48]).onPort (fun t =>
    t.host.sent.head? = some (.dump [0, 1, 0, 0, 0, 0, 0xFF, 0xFF, 0xFF, 0xFF, 0, 0, 0, 0, 0, 0])) = true := by decide

theorem test_v140_fopen : gives (startFile [0x49, 0x00]) (fun t =>
    t.d3 = 0 && t.d2 = 0 && t.d1 = 0 && t.d0 = 2 && (t.handle 0).opened) = true := by decide
theorem test_v141_fopen : gives { startFile [0x49, 0x01] with d0 := 0xFF, d1 := 0xFF, d2 := 0xFF, d3 := 0xFF } (fun t =>
    t.d3 = 0 && t.d2 = 0 && t.d1 = 0 && t.d0 = 0 && !(t.handle 1).opened) = true := by decide
theorem test_v142_fchk : (gives (startFile [0x52, 0x01, 0x00, 0x20]) (fun t => t.pc = 4) &&
    gives (startFile [0x52, 0x00, 0x00, 0x20]) (fun t => t.pc = 0x0020)) = true := by decide
theorem test_fchk_a : gives { startFile [0x53, 0x00, 0x01] with a1 := 0x0020 } (fun t => t.pc = 0x0020) = true := by
  decide
theorem test_v143_filer : gives { startFile [0x4A, 0x00, 0x01, 0x00] with acc := 5 } (fun t =>
    t.mem = [(0x0100, 0x41), (0x0101, 0x42)] && t.acc = 2 && (t.handle 0).cursor = 2) = true := by decide
theorem test_v145_v146_filer : (traps { startFile [0x4A, 0x00, 0xFF, 0xFE] with acc := 2 } .memOutOfRange &&
    traps (startFile [0x4A, 0x00, 0xFF, 0xFF]) .memOutOfRange) = true := by decide
theorem test_v144_filer_a : gives (({ startFile [0x4B, 0x00, 0x01] with acc := 5 } : State).setHandle 0 ⟨true, 2⟩)
    (fun t => t.acc = 0 && t.mem = [] && (t.handle 0).cursor = 2) = true := by decide
theorem test_filew : gives { startFile [0x4C, 0x00, 0x01, 0x00] with acc := 1, mem := [(0x0100, 0x33)] } (fun t =>
    t.host.files = [⟨[0x33, 0x42], true⟩] && t.acc = 1 && (t.handle 0).cursor = 1) = true := by decide
theorem test_filew_a : gives { startFile [0x4D, 0x00, 0x01] with acc := 2, a1 := 8, mem := [(9, 0x33)] } (fun t =>
    t.host.files = [⟨[0x00, 0x33], true⟩] && t.acc = 2 && (t.handle 0).cursor = 2) = true := by decide
theorem test_v147_fseek : gives { startFile [0x51, 0x00] with d0 := 4, d1 := 3, d2 := 2, d3 := 1 } (fun t =>
    (t.handle 0).cursor = 0x01020304) = true := by decide
theorem test_v147_filew_nn : gives ((startFile [0x4F, 0x00, 0x5A]).setHandle 0 ⟨true, 4⟩) (fun t =>
    t.host.files = [⟨[0x41, 0x42, 0x00, 0x00, 0x5A], true⟩] && t.acc = 1 && (t.handle 0).cursor = 5) = true := by decide
theorem test_v148_fskip : gives (({ startFile [0x50, 0x00, 0x02] with d1 := 20 } : State).setHandle 0 ⟨true, 1⟩) (fun t =>
    t.acc = 1 && (t.handle 0).cursor = 2) = true := by decide
theorem test_v149_fskip : gives { startFile [0x50, 0x01, 0x02] with d1 := 20, acc := 7 } (fun t => t.acc = 0) = true := by
  decide
theorem test_v150_filew_nr : gives { startFile [0x4E, 0x00, 0x00] with acc := 0x33 } (fun t =>
    t.host.files = [⟨[0x33, 0x42], true⟩] && t.acc = 1 && (t.handle 0).cursor = 1) = true := by decide

theorem test_v160_ipoll : (gives (start [0x54, 0x00, 0x10]).onPort (fun t => t.pc = 3 && t.keybuf = []) &&
    gives ({ start [0x54, 0x00, 0x10] with keybuf := [0x41] } : State).onPort
      (fun t => t.pc = 0x0010 && t.keybuf = [0x41])) = true := by decide
theorem test_ipoll_a : gives ({ start [0x55, 0x01] with a1 := 0x0010, keybuf := [0x41] } : State).onPort
    (fun t => t.pc = 0x0010) = true := by decide
theorem test_v161_rchr : gives (start [0x56, 0x01]).onPort (fun t => t.status = .waitKey 0 .d0 && t.pc = 0 &&
    t.host.sent = [.awaitKey] && t.proto = .awaitingKey) = true := by decide
theorem test_v161_key : gives
    { start [0x56, 0x01] with
      mode := .piped, status := .waitKey 0 .d0, proto := .awaitingKey
      host := { HostSide.fresh with inbox := [0x6B, 0x41] } }
    (fun t => t.d0 = 0x41 && t.pc = 2 && t.status = .halted .endOfOps && t.proto = .halted &&
      t.host.sent = [.finished]) = true := by decide
theorem test_v162_rstr : gives ({ start [0x57, 0xFF, 0x00] with strbuf := [[]], acc := 9 } : State).onPort
    (fun t => t.acc = 0 && t.mem = []) = true := by decide
theorem test_v163_rstr : traps (start [0x57, 0xFF, 0x01]) .memOutOfRange = true := by decide
theorem test_rstr_a : gives { start [0x58, 0x01] with
      a1 := 0x0200, host := { HostSide.fresh with lines := [some [0x68, 0x69]] } }
    (fun t => t.acc = 2 && t.mem = [(0x0200, 0x68), (0x0201, 0x69)] && t.pc = 2) = true := by decide
theorem test_v9_nop : gives (start [0x59]) (fun t => t.pc = 1 && gives t fun u => u.status = .halted .endOfOps) = true := by
  decide
theorem test_v165_halt : gives (start [0x5A]) (fun t => t.status = .halted .haltInstr && t.pc = 1) = true := by decide
theorem test_v166_time : gives { start [0x5D] with
      d3 := 7, acc := 9, host := { HostSide.fresh with clocks := [⟨58, 59, 23⟩] } }
    (fun t => t.d0 = 58 && t.d1 = 59 && t.d2 = 23 && t.d3 = 7 && t.acc = 9) = true := by decide
theorem test_rand : gives { start [0x5B, 0x02] with acc := 9 } (fun t => t.acc = 9 && t.pc = 2) = true := by decide
theorem test_seed : gives { start [0x5C, 0x01] with d0 := 5 } (fun t => t.d0 = 5 && t.pc = 2) = true := by decide

theorem test_e1_first_dump : State.reset.dump =
    [0, 0, 0, 0, 0, 0, 0xFF, 0xFF, 0xFF, 0xFF, 0, 0, 0, 0, 0, 0] := by decide

/-- Session S1's program with the host's bytes to read. -/
def session (pc : Word) (bps : List Word) (inbox : List Byte) : State :=
  { start [0x59, 0x59, 0x5A] with
    mode := .piped, pc := pc, breakpoints := bps, host := { HostSide.fresh with inbox := inbox } }

theorem test_s1_step : gives (session 0 [] [0x65]) (fun t => t.pc = 1 && t.host.sent = []) = true := by decide
theorem test_s1_dump : gives (session 1 [] [0x64]) (fun t => t.host.sent =
    [.dump [0, 1, 0, 0, 0, 0, 0xFF, 0xFF, 0xFF, 0xFF, 0, 0, 0, 0, 0, 0]]) = true := by decide
theorem test_s1_breakpoint : (
    gives (session 1 [] [0x62, 0x00, 0x01]) (fun t => t.breakpoints = [1] && t.host.sent = []) &&
    gives (session 1 [1] [0x65]) (fun t => t.pc = 1 && t.host.sent = [.breakpoint 1]) &&
    gives (session 1 [1] [0x66]) (fun t => t.pc = 2 && t.host.sent = [])) = true := by decide
theorem test_s1_halt : gives (session 2 [1] [0x65]) (fun t => t.status = .halted .haltInstr && t.proto = .halted &&
    t.host.sent = [.finished] && gives { t with host := { t.host with inbox := [0x65] } } (fun u =>
      u.status = t.status && u.host.sent = t.host.sent)) = true := by decide
theorem test_s2_key : gives { start [0x56, 0x01, 0x42, 0x01] with
      mode := .piped, status := .waitKey 0 .d0, proto := .awaitingKey
      host := { HostSide.fresh with inbox := [0x6B, 0x41] } }
    (fun t => t.status = .running && t.d0 = 0x41 && t.pc = 2 && t.proto = .idle && t.host.sent = []) = true := by decide
theorem test_s2_end : gives { start [0x56, 0x01, 0x42, 0x01] with
      mode := .piped, pc := 2, d0 := 0x41, host := { HostSide.fresh with inbox := [0x65] } }
    (fun t => t.host.sent = [.stdout [0x41], .finished] && t.status = .halted .endOfOps) = true := by decide
theorem test_wire : ((DeviceFrame.breakpoint 1).wire = [0x68, 0x00, 0x01]) ∧
    ((DeviceFrame.stdout [0x41]).wire = [0x6F, 0x01, 0x41]) ∧ ((DeviceFrame.memory [7]).wire = [0x6D, 0x00, 0x01, 7]) := by
  decide

/-! ### well-formedness: what the checks refuse, one term for each check -/

theorem test_wf_refuses_registers : (
    !operandsLegal [.dataReg] [5] && !operandsLegal [.addrReg] [2] && !operandsLegal [.num, .dataReg] [9, 5] &&
    !operandsLegal [.addrReg, .dataId, .num, .num] [2, 0, 0, 0, 0] &&
    operandsLegal [.dataReg] [4] && operandsLegal [.addrReg] [1]) = true := by decide
theorem test_wf_refuses_short_operands : (
    !operandsLegal [.dataReg] [] && !operandsLegal [.addrReg] [] && !operandsLegal [.num] [] &&
    !operandsLegal [.addr] [1] && !operandsLegal [.stringId] [1] && !operandsLegal [.dataId] [1] &&
    operandsLegal [.addr, .stringId, .dataId] [1, 2, 3, 4, 5, 6]) = true := by decide

/-- An image without anything in it. -/
def noImage : Image := ⟨[], [], [], [], []⟩

theorem test_wf_refuses_long_headers : (noImage.wellFormed &&
    !{ noImage with name := List.replicate 21 0x41 }.wellFormed &&
    !{ noImage with version := List.replicate 11 0x31 }.wellFormed) = true := by decide

/-- A region too long for a 16-bit length makes an image ill-formed, whichever of the three it is. -/
theorem test_wf_refuses_long_regions : ∀ r : List Byte, r.length = 65536 →
    { noImage with ops := r }.wellFormed = false ∧ { noImage with strings := r }.wellFormed = false ∧
      { noImage with data := r }.wellFormed = false := by
  intro r h
  simp [Image.wellFormed, noImage, h, Config.regionMax]

theorem test_decode_rejects_by_name :
    decode [0x00] = .error .badOpcode ∧ decode [0x5E, 1, 2] = .error .badOpcode ∧
    decode [0x13, 0x05] = .error .truncated ∧ decode [0x13, 0x05, 0x07] = .error .badRegister ∧
    decode [] = .error .truncated := ⟨rfl, rfl, rfl, rfl, rfl⟩

theorem test_decode_leaves_the_rest : decode [0x59, 0x5A] = .ok (.nop, [0x5A]) := rfl
theorem test_table_word : decodeTableWord 24 0x020101 = some (.addRR .d0 .d1) := by decide
theorem test_table_word_ldATRR : decodeTableWord 48 0x020100000121 = some (.ldATRR .a1 0 .d0 .d1) := by decide
theorem test_fetch_word_runs : gives (State.reset.withFetchWord 16 0x0107) (fun t => t.acc = 1 && t.pc = 2) = true := by
  decide

/-! ### a device with other parameters (00_scope.md R5, R6) -/

/-- An opcode map that gives every row the byte of the table plus 0x80. -/
def shiftedOpcodes : OpcodeMap := tableOpcodes.map fun c => (c + 0x80, c)

/-- Parameters that differ from the defaults in all three. -/
def otherParams : Params := ⟨shiftedOpcodes, 1, [1, 2, 3]⟩

theorem shiftedOpcodes_wellFormed : OpcodeMap.wellFormed shiftedOpcodes = true := by
  rw [OpcodeMap.wellFormed_iff]
  exact ⟨by simp [shiftedOpcodes, Function.comp_def],
    by simpa [shiftedOpcodes, Function.comp_def] using tableOpcodes_nodup.map fun a b h => by simpa using h⟩

theorem test_opcode_map : (gives { start [0xDA] with params := otherParams } (fun t => t.status = .halted .haltInstr) &&
    traps { start [0x5A] with params := otherParams } .badOpcode &&
    gives { start [0x81, 0x01, 0x02] with params := otherParams, d0 := 1, d1 := 2 } (fun t => t.acc = 3)) = true := by
  decide
theorem test_encode_with_map : encodeWith shiftedOpcodes (.cpyRN .d0 7) = [0x93, 0x01, 0x07] := by decide
theorem test_arg_bias : (
    gives { start [0xBE, 0x01, 0x00] with params := otherParams, fp := 0xFFFD, mem := [(0xFFFE, 4)] }
      (fun t => t.d0 = 4) &&
    traps { start [0xBE, 0x01, 0x00] with params := otherParams, fp := 0xFFFE } .memOutOfRange) = true := by decide
theorem test_magic : parseImage [1, 2, 3] [1, 2, 3, 0, 0, 0, 1, 0x59, 0, 0, 0, 0] = .ok ⟨[], [], [0x59], [], []⟩ ∧
    parseImage [1, 2, 3] [0xFD, 0xA0, 0x10, 0, 0, 0, 1, 0x59, 0, 0, 0, 0] = .error .badMagic ∧
    parseImage Config.magic [0xFD, 0xA0, 0x10, 21] = .error .nameTooLong ∧
    parseImage Config.magic [0xFD, 0xA0, 0x10, 0, 11] = .error .versionTooLong := ⟨rfl, rfl, rfl, rfl⟩

/-! ### witnesses: a state and operands that meet the hypotheses of each obligation, at the bounds of each clause -/

/-- The state an instruction answers. -/
def done (i : Instr) (s : State) : State :=
  match exec i s with
  | .next t => t
  | _ => s

/-- The state a step answers. -/
def stepped (s : State) : State :=
  match step s with
  | .next t => t
  | _ => s

theorem witness_DecodeEncodeAgree : OpcodeMap.wellFormed shiftedOpcodes = true := shiftedOpcodes_wellFormed
theorem witness_DecodedBytesAreTheEncoding : decode [0x01, 0x01, 0x02] = .ok (.addRR .d0 .d1, []) ∧
    OpcodeMap.wellFormed shiftedOpcodes = true ∧
    decodeWith shiftedOpcodes [0x81, 0x01, 0x02] = .ok (.addRR .d0 .d1, []) := ⟨rfl, shiftedOpcodes_wellFormed, rfl⟩
theorem witness_UnassignedOpcodesTrap_map : (start [0x00]).params.opcodeMap = defaultOpcodeMap ∧
    (start [0x5E]).params.opcodeMap = defaultOpcodeMap := ⟨rfl, rfl⟩
theorem witness_UnassignedOpcodesTrap :
    ((start [0x00]).ops.drop (start [0x00]).pc.toNat = [0x00] ∧ ((0x00 : Byte).toNat = 0 ∨ 0x5E ≤ (0x00 : Byte).toNat)) ∧
    ((start [0x5E]).ops.drop (start [0x5E]).pc.toNat = [0x5E] ∧ ((0x5E : Byte).toNat = 0 ∨ 0x5E ≤ (0x5E : Byte).toNat)) ∧
    ((start [0xFF]).ops.drop (start [0xFF]).pc.toNat = [0xFF] ∧ ((0xFF : Byte).toNat = 0 ∨ 0x5E ≤ (0xFF : Byte).toNat)) := by
  decide
theorem witness_LengthIsCheckedBeforeRegisters_map : OpcodeMap.wellFormed defaultOpcodeMap = true :=
  defaultOpcodeMap_wellFormed
theorem witness_LengthIsCheckedBeforeRegisters : formatWith defaultOpcodeMap 0x13 = some .rn ∧
    formatWith shiftedOpcodes 0x93 = some .rn ∧
    [(0x01 : Byte)].length + 1 < Format.rn.length ∧
    (Format.rn.length ≤ [(0x05 : Byte), 0x07].length + 1 ∧ operandsLegal Format.rn.fields [0x05, 0x07] = false) ∧
    (Format.rn.length ≤ [(0x04 : Byte), 0x07].length + 1 ∧ operandsLegal Format.rn.fields [0x04, 0x07] = true) := by decide
theorem witness_HostFramesRoundTrip :
    ∀ bs, HostFrame.string (List.replicate 255 0) = .string bs → bs.length ≤ 255 := by
  intro bs h; rw [← HostFrame.string.inj h, List.length_replicate]
theorem witness_StepRunsTheDecodedInstruction : (start [0x59]).mode = .direct ∧ (start [0x59]).status = .running ∧
    (start [0x59]).host.cancelPending = false ∧
    decodeWith (start [0x59]).params.opcodeMap ((start [0x59]).ops.drop (start [0x59]).pc.toNat) = .ok (.nop, []) := ⟨rfl, rfl, rfl, rfl⟩
theorem witness_PipedStepRunsTheDecodedInstruction :
    (∀ s ∈ [session 0 [] [0x65], session 0 [0] [0x66]], s.mode = .piped ∧ s.status = .running ∧ s.proto = .idle ∧
      s.host.cancelPending = false ∧ s.host.sessionClosed = false ∧
      (s.host.inbox = [0x66] ∨ s.host.inbox = [0x65] ∧ s.pc ∉ s.breakpoints)) ∧
    decodeWith (session 0 [] [0x65]).params.opcodeMap
      ((session 0 [] [0x65]).ops.drop (session 0 [] [0x65]).pc.toNat) = .ok (.nop, [0x59, 0x5A]) ∧
    exec .nop { session 0 [] [0x65] with host := { (session 0 [] [0x65]).host with inbox := [] } } =
      .next (done .nop { session 0 [] [0x65] with host := { (session 0 [] [0x65]).host with inbox := [] } }) :=
  ⟨by decide, rfl, rfl⟩
theorem witness_PipedStepRunsTheDecodedInstruction_end :
    let t := done .nop (session 2 [] [])
    exec .nop (session 2 [] []) = .next t ∧ t.status = .running ∧ t.pc.toNat = t.ops.length ∧ t.mode = .piped ∧
      t.host.sentLeft = none := ⟨rfl, rfl, rfl, rfl, rfl⟩
theorem witness_BoundaryOutcomes_piped :
    ∀ s ∈ [session 3 [] [0x66], session 4 [0] [0x65], session 0xFFFF [0xFFFF] [0x66],
        ({ session 0 [] [0x65] with ops := [0x00] } : State)],
      s.status = .running ∧ s.host.cancelPending = false ∧ s.mode = .piped ∧ s.proto = .idle ∧
      s.host.sessionClosed = false ∧ s.host.sentLeft = none ∧
      (s.host.inbox = [0x66] ∨ s.host.inbox = [0x65] ∧ s.pc ∉ s.breakpoints) := by decide
theorem witness_BoundaryOutcomes :
    (∀ s ∈ [start [], { start [0x59] with pc := 1 }], s.mode = .direct ∧ s.status = .running ∧
      s.host.cancelPending = false ∧ s.pc.toNat = s.ops.length) ∧
    ([] : List Byte).length < ({ start [] with pc := 1 } : State).pc.toNat ∧
    decodeWith (start []).params.opcodeMap ((start [0x00]).ops.drop 0) = .error .badOpcode ∧
    decodeWith (start []).params.opcodeMap ((start [0x13, 1]).ops.drop 0) = .error .truncated ∧
    decodeWith (start []).params.opcodeMap ((start [0x15, 0, 2]).ops.drop 0) = .error .badRegister := ⟨by decide, by decide, rfl, rfl, rfl⟩
theorem witness_EightBitArithmetic : (startE5 []).data[(State.ar { startE5 [] with a0 := 7 } .a0).toNat]? = some 0x65 := by
  decide
theorem witness_DataRegisterCopies : (startE5 []).data[(State.ar { startE5 [] with a0 := 7 } .a0).toNat]? = some 0x65 := by
  decide
theorem witness_CompareResults : (startE5 []).data[(State.ar (startE5 []) .a0).toNat]? = some 0x02 := by decide
theorem witness_MemoryByteReads : (0xFFFE : Addr) ≠ 0xFFFF ∧ State.ar { start [] with a0 := 0xFFFE } .a0 ≠ 0xFFFF := by
  decide
theorem witness_MemoryByteWrites : (0x0000 : Addr) ≠ 0xFFFF ∧ State.ar { start [] with a1 := 0xFFFE } .a1 ≠ 0xFFFF := by
  decide
theorem witness_MemcCopiesDataToMemory :
    ∀ s ∈ [({ startE5 [] with a0 := 5, a1 := 65532, acc := 3 } : State), { startE5 [] with a0 := 7, a1 := 65534 }],
      (s.ar .a0).toNat < s.data.length ∧ (s.ar .a0).toNat + s.acc.toNat ≤ s.data.length ∧
      (s.ar .a1).toNat < 65535 ∧ (s.ar .a1).toNat + s.acc.toNat ≤ 65535 := by decide
theorem witness_LdComputesPackedOffsets :
    (LdAnswers (startE5 []).data 0 0 0 0 ∧ LdAnswers (startE5 []).data 0 0 2 2 ∧ LdAnswers (startE5 []).data 0 2 1 7) ∧
    (LdIndexBad (startE5 []).data 0 0 3 ∧ LdIndexBad (startE5 []).data 0 3 0 ∧ LdIndexBad (startE5 []).data 0 1 3) ∧
    ((¬ ∃ a, LdAnswers (startE5 []).data 8 0 0 a) ∧ ¬ LdIndexBad (startE5 []).data 8 0 0) ∧
    (({ startE5 [] with d0 := 2, d1 := 1 } : State).dr .d0).toNat = 2 := by
  refine ⟨?_, ?_, ⟨?_, ?_⟩, by decide⟩
  · unfold LdAnswers; decide
  · unfold LdIndexBad; decide
  · rintro ⟨a, h, _⟩; exact absurd h (by decide)
  · unfold LdIndexBad; decide
theorem witness_LenReadsPackedLengths :
    (LenAnswers (startE5 []).data 0 0 2 ∧ LenAnswers (startE5 []).data 0 2 2) ∧
    (0 < (startE5 []).data.length ∧ outerCount (startE5 []).data 0 < 3) ∧
    ((¬ ∃ v, LenAnswers (startE5 []).data 8 0 v) ∧
      ¬ (8 < (startE5 []).data.length ∧ outerCount (startE5 []).data 8 < 0)) := by
  refine ⟨?_, by decide, ?_, by decide⟩
  · unfold LenAnswers; decide
  · rintro ⟨v, h, _⟩; exact absurd h (by decide)
theorem witness_CallPushesReturnAddress :
    ((∃ w, Instr.callW 0x0100 = .callW w ∧ (0x0100 : Word) = w ∧ 3 = 3) ∨
      ∃ x, Instr.callW 0x0100 = .callA x ∧ (0x0100 : Word) = (start []).ar x ∧ 3 = 2) ∧
    ((∃ w, Instr.callA .a0 = .callW w ∧ (0 : Word) = w ∧ 2 = 3) ∨
      ∃ x, Instr.callA .a0 = .callA x ∧ (0 : Word) = (start []).ar x ∧ 2 = 2) ∧
    2 ≤ ({ start [] with sp := 2 } : State).sp.toNat ∧ ({ start [] with sp := 1 } : State).sp.toNat < 2 :=
  ⟨.inl ⟨_, rfl, rfl, rfl⟩, .inr ⟨_, rfl, rfl, rfl⟩, by decide, by decide⟩
theorem witness_RetPopsTheProgramCounter : ({ start [] with sp := 0xFFFD } : State).sp.toNat ≤ 0xFFFD ∧
    0xFFFD < ({ start [] with sp := 0xFFFE } : State).sp.toNat := by decide
theorem witness_PushStoresBelow : 1 ≤ ({ start [] with sp := 1 } : State).sp.toNat ∧
    2 ≤ ({ start [] with sp := 2 } : State).sp.toNat := by decide
theorem witness_PopLoads : ({ start [] with sp := 0xFFFE } : State).sp.toNat ≤ 0xFFFE ∧
    ({ start [] with sp := 0xFFFD } : State).sp.toNat ≤ 0xFFFD := by decide
theorem witness_ArgReads :
    (∀ s ∈ [({ start [] with fp := 0xFFFD } : State), { start [] with fp := 0xFFFC, params := otherParams }],
      s.fp.toNat + (1 : Byte).toNat + s.params.argBias < 65535 ∧
      s.fp.toNat + (0 : Byte).toNat + s.params.argBias + 1 < 65535) := by decide
theorem witness_StackBoundTraps : ({ start [] with sp := 0 } : State).sp.toNat = 0 ∧
    ({ start [] with sp := 1 } : State).sp.toNat < 2 ∧ (start []).sp.toNat = 0xFFFF ∧
    0xFFFD < ({ start [] with sp := 0xFFFE } : State).sp.toNat := by decide
theorem witness_StackLaws_push :
    let s : State := { start [] with sp := 1 }
    let t := done (.pushR .d0) s
    1 ≤ s.sp.toNat ∧ exec (.pushR .d0) s = .next t ∧ t.sp = t.sp ∧ t.byte t.sp.toNat = t.byte t.sp.toNat :=
  ⟨by decide, rfl, rfl, rfl⟩
theorem witness_StackLaws_push_a :
    let s : State := { start [] with sp := 2 }
    let t := done (.pushA .a0) s
    2 ≤ s.sp.toNat ∧ exec (.pushA .a0) s = .next t ∧ t.sp = t.sp ∧ t.byte t.sp.toNat = t.byte t.sp.toNat ∧
      t.byte (t.sp.toNat + 1) = t.byte (t.sp.toNat + 1) := ⟨by decide, rfl, rfl, rfl, rfl⟩
theorem witness_StackLaws_call :
    let s : State := { start [] with sp := 2 }
    let t := done (.callW 0x0100) s
    2 ≤ s.sp.toNat ∧ exec (.callW 0x0100) s = .next t ∧ t.sp = t.sp ∧ t.byte t.sp.toNat = t.byte t.sp.toNat ∧
      t.byte (t.sp.toNat + 1) = t.byte (t.sp.toNat + 1) := ⟨by decide, rfl, rfl, rfl, rfl⟩

/-- One instruction of each output form in a state with room for it at the end of each region. -/
theorem witness_Prints :
    State.Prints { start [] with acc := 255 } (.prtR .acc) [0x32, 0x35, 0x35] 2 ∧
    State.Prints (start []) (.prtN 0) [0x30] 2 ∧ State.Prints { start [] with d3 := 9 } (.prtcR .d3) [9] 2 ∧
    State.Prints (start []) (.prtcN 0xFF) [0xFF] 2 ∧
    State.Prints { start [] with str := [0] } (.prtsS 0) [] 3 ∧
    State.Prints { start [] with str := [2, 0x68, 0x69] } (.prtsS 0) [0x68, 0x69] 3 ∧
    State.Prints (start []) .prtln [0x0A] 1 ∧
    State.Prints { startE5 [] with a0 := 7, acc := 1 } (.prtdA .a0) [0x65] 2 ∧
    State.Prints { start [] with a1 := 0xFFFE, acc := 1 } (.mempA .a1) [0] 2 := by
  refine ⟨.inl ⟨_, rfl, by decide, rfl⟩, .inr (.inl ⟨_, rfl, by decide, rfl⟩), .inr (.inr (.inl ⟨_, rfl, rfl, rfl⟩)),
    .inr (.inr (.inr (.inl ⟨_, rfl, rfl, rfl⟩))), .inr (.inr (.inr (.inr (.inl ⟨_, 0, rfl, ?_⟩)))),
    .inr (.inr (.inr (.inr (.inl ⟨_, 2, rfl, ?_⟩)))), .inr (.inr (.inr (.inr (.inr (.inl ⟨rfl, rfl, rfl⟩))))),
    .inr (.inr (.inr (.inr (.inr (.inr (.inl ⟨_, rfl, ?_⟩)))))),
    .inr (.inr (.inr (.inr (.inr (.inr (.inr ⟨_, rfl, ?_⟩))))))⟩
  all_goals decide
theorem witness_PrintInDirectMode : State.Prints (start []) .prtln [0x0A] 1 ∧ (start []).mode = .direct ∧
    (start []).host.stdout.Takes 1 ∧ OutChannel.Takes ⟨[], some 1⟩ 1 :=
  ⟨witness_Prints.2.2.2.2.2.2.1, rfl, fun _ h => by simp [start, State.reset, HostSide.fresh] at h,
    fun _ h => by cases h; decide⟩
theorem witness_PrintInPipedMode : State.Prints (start []).onPort (.prtN 0) [0x30] 2 ∧ (start []).onPort.mode = .piped ∧
    (start []).onPort.host.sentLeft = none := ⟨.inr (.inl ⟨0, rfl, by decide, rfl⟩), rfl, rfl⟩
theorem witness_BrokenStdoutTraps :
    let s : State := { start [] with host := { HostSide.fresh with stdout := ⟨[], some 0⟩ } }
    s.Prints .prtln [0x0A] 1 ∧ s.mode = .direct ∧ s.host.stdout.left = some 0 ∧ 0 < [(0x0A : Byte)].length :=
  ⟨.inr (.inr (.inr (.inr (.inr (.inl ⟨rfl, rfl, rfl⟩))))), rfl, rfl, by decide⟩
theorem witness_DebugDumps : ((start []).mode = .direct ∧ (start []).host.stderr.left = none) ∧
    (HostSide.stderr { HostSide.fresh with stderr := ⟨[], some 0⟩ }).left = some 0 ∧
    (start []).onPort.mode = .piped ∧ (start []).onPort.host.sentLeft = none := by decide
theorem witness_RangeTraps :
    (startE5 []).data.length ≤ (State.ar { startE5 [] with a0 := 8 } .a0).toNat ∧ (0xFFFF : Addr) = 0xFFFF ∧
    State.ar { start [] with a0 := 0xFFFF } .a0 = 0xFFFF ∧
    (8 ≤ 7 ∨ (startE5 []).data.length < (State.ar { startE5 [] with a0 := 7 } .a0).toNat + (2 : Byte).toNat) ∧
    (65535 ≤ 65534 ∨ 65535 < (State.ar { start [] with a0 := 0xFFFE } .a0).toNat + (2 : Byte).toNat) ∧
    65535 < (0xFF01 : Addr).toNat + 255 ∧ 65535 ≤ (start []).fp.toNat + (0 : Byte).toNat + (start []).params.argBias ∧
    65535 < ({ start [] with fp := 0xFFFE } : State).fp.toNat + (0 : Byte).toNat + (start []).params.argBias + 2 ∧
    ([5, 0x41] : List Byte).length < 0 + 1 + (([5, 0x41] : List Byte).getD 0 0).toNat := by decide
theorem witness_RangeTraps_memc :
    ¬ ((startE5 []).data.length ≤ 6 ∨ (startE5 []).data.length < 6 + (2 : Byte).toNat) ∧
    (65535 ≤ 65534 ∨ 65535 < (0xFFFE : Word).toNat + (2 : Byte).toNat) := by decide

/-- Whether a handle is available, and the state with it opened. -/
theorem avail_pair (s : State) (f : Byte) (b : Bool) (h : (s.avail f).1 = b) : s.avail f = (b, (s.avail f).2) :=
  Prod.ext h rfl

theorem witness_HandlesOpenOnDemand : (((startFile []).setHandle 255 ⟨true, 0⟩).handle 255).opened = true ∧
    ((startFile []).handle 0).opened = false ∧ ((startFile []).handle 255).opened = false := by decide
theorem witness_FopenReportsSize :
    ((startFile []).avail 0 = (true, ((startFile []).avail 0).2) ∧
      (((startFile []).avail 0).2.host.fileBytes 0).length < 4294967296) ∧
    (startFile []).avail 1 = (false, ((startFile []).avail 1).2) :=
  ⟨⟨avail_pair _ _ _ (by decide), by decide⟩, avail_pair _ _ _ (by decide)⟩
theorem witness_FilerReads :
    let s : State := { startFile [] with acc := 2 }
    ((∃ w, Instr.filerNW 0 65533 = .filerNW 0 w ∧ 65533 = w.toNat ∧ 4 = 4) ∨
      ∃ x, Instr.filerNW 0 65533 = .filerNA 0 x ∧ 65533 = (s.ar x).toNat ∧ 4 = 3) ∧
    65533 < 65535 ∧ 65533 + s.acc.toNat ≤ 65535 ∧ s.avail 0 = (true, (s.avail 0).2) :=
  ⟨.inl ⟨_, rfl, rfl, rfl⟩, by decide, by decide, avail_pair _ _ _ (by decide)⟩
theorem witness_FilewWrites :
    let s : State := { startFile [] with acc := 1, a0 := 65534, mem := [(65534, 7)] }
    (∃ x, Instr.filewNA 0 .a0 = .filewNA 0 x ∧ (s.ar x).toNat < 65535 ∧ (s.ar x).toNat + s.acc.toNat ≤ 65535 ∧ 3 = 3 ∧
      [(7 : Byte)] = (List.range s.acc.toNat).map fun k => s.byte ((s.ar x).toNat + k)) ∧
    (∃ n, Instr.filewNN 0 9 = .filewNN 0 n ∧ 3 = 3 ∧ [(9 : Byte)] = [n]) ∧
    s.avail 0 = (true, (s.avail 0).2) ∧ (0 : Byte).toNat < (s.avail 0).2.host.files.length :=
  ⟨⟨_, rfl, by decide, by decide, rfl, by decide⟩, ⟨_, rfl, rfl, rfl⟩, avail_pair _ _ _ (by decide), by decide⟩
theorem witness_CursorMovesAndChecks : (startFile []).avail 0 = (true, ((startFile []).avail 0).2) :=
  avail_pair _ _ _ (by decide)
theorem witness_UnavailableHandles :
    let s : State := { startFile [] with acc := 1, a0 := 65534 }
    s.avail 1 = (false, (s.avail 1).2) ∧ ((65534 : Addr).toNat < 65535 ∧ (65534 : Addr).toNat + s.acc.toNat ≤ 65535) ∧
      (s.ar .a0).toNat < 65535 ∧ (s.ar .a0).toNat + s.acc.toNat ≤ 65535 :=
  ⟨avail_pair _ _ _ (by decide), by decide, by decide, by decide⟩
theorem witness_IpollBranches :
    ((∃ w, Instr.ipollW 0 = .ipollW w ∧ (0 : Word) = w ∧ 3 = 3) ∨
      ∃ x, Instr.ipollW 0 = .ipollA x ∧ (0 : Word) = (start []).ar x ∧ 3 = 2) ∧
    (start []).onPort.mode = .piped ∧ (start []).mode = .direct ∧
    (HostSide.ready { HostSide.fresh with ready := [true] }) = [true] ∧ (start []).host.ready = [] :=
  ⟨.inl ⟨_, rfl, rfl, rfl⟩, rfl, rfl, rfl, rfl⟩
theorem witness_RchrTakesOrWaits :
    ((start []).onPort.mode = .piped ∧ (start []).onPort.keybuf = [] ∧ (start []).onPort.host.sentLeft = none) ∧
    ({ start [] with keybuf := [0x41] } : State).onPort.keybuf = [0x41] ∧
    (HostSide.keys { HostSide.fresh with keys := [some 0x41] }) = [some 0x41] ∧
    (HostSide.keys { HostSide.fresh with keys := [none, some 0x41] }) = [none, some 0x41] ∧
    (start []).mode = .direct ∧ (start []).host.keys = [] := by decide
theorem witness_RstrStoresOrWaits :
    ((∃ w, Instr.rstrW 0xFF00 = .rstrW w ∧ (0xFF00 : Word) = w ∧ 3 = 3) ∨
      ∃ x, Instr.rstrW 0xFF00 = .rstrA x ∧ (0xFF00 : Word) = (start []).ar x ∧ 3 = 2) ∧
    (0xFF00 : Word).toNat + 255 ≤ 65535 ∧
    ((start []).onPort.mode = .piped ∧ ∃ r, ({ start [] with strbuf := [[]] } : State).onPort.strbuf = [] :: r) ∧
    ((start []).mode = .direct ∧ ∃ r, (HostSide.lines { HostSide.fresh with lines := [some [7]] }) = some [7] :: r) ∧
    ((start []).onPort.strbuf = [] ∧ (start []).onPort.host.sentLeft = none) ∧ (start []).host.lines = [] ∧
    (HostSide.lines { HostSide.fresh with lines := [none] }) = [none] :=
  ⟨.inl ⟨_, rfl, rfl, rfl⟩, by decide, ⟨rfl, _, rfl⟩, ⟨rfl, _, rfl⟩, ⟨rfl, rfl⟩, rfl, rfl⟩
theorem witness_WaitsEndWithDelivery :
    let k : State := { start [0x56, 0x01] with status := .waitKey 0 .d0 }
    let l : State := { start [0x57, 0xFF, 0x00] with status := .waitStr 0 0xFF00 3 }
    (k.host.cancelPending = false ∧ k.mode = .direct ∧ k.status = .waitKey 0 .d0 ∧ k.host.keys = []) ∧
    ((HostSide.keys { k.host with keys := [some 7] }) = [some 7]) ∧
    (l.mode = .direct ∧ l.status = .waitStr 0 0xFF00 3 ∧ (HostSide.lines { l.host with lines := [some []] }) = [some []] ∧
      (0xFF00 : Word).toNat + 255 ≤ 65535) ∧
    (HostSide.inbox { k.host with inbox := [0x6B, 0x41] } = [0x6B, 0x41] ∧ k.host.sessionClosed = false) ∧
    (HostSide.inbox { l.host with inbox := [0x74, 1, 7, 0x65] } = 0x74 :: 1 :: ([7] ++ [0x65]) ∧
      [(7 : Byte)].length = (1 : Byte).toNat) := by decide
theorem witness_WaitsEndWithDelivery_last : ((0 : Word) + 2).toNat = [(0x56 : Byte), 0x01].length ∧
    ((0 : Word) + 2).toNat ≠ [(0x56 : Byte), 0x01, 0x42, 0x01].length ∧
    ((0 : Word) + BitVec.ofNat 16 3).toNat = [(0x57 : Byte), 0xFF, 0x00].length ∧
    (start [0x56, 0x01]).host.sentLeft = none := by decide
theorem witness_WaitsEndWithDelivery_before :
    let k : State := { start [0x56, 0x01] with status := .waitKey 0 .d0 }
    let l : State := { start [0x57, 0xFF, 0x00] with status := .waitStr 0 0xFF00 3 }
    (k.mode = .direct ∧ (HostSide.keys { k.host with keys := [none] }) = [none]) ∧
    (l.mode = .direct ∧ l.host.lines = [] ∧ (HostSide.lines { l.host with lines := [none] }) = [none]) ∧
    (∀ s ∈ [({ k with mode := .piped, proto := .awaitingKey } : State),
        { l with mode := .piped, proto := .awaitingString }],
      s.mode = .piped ∧ s.host.sessionClosed = false ∧
      (s.status = .waitKey 0 .d0 ∧ s.proto = .awaitingKey ∨ s.status = .waitStr 0 0xFF00 3 ∧ s.proto = .awaitingString) ∧
      parseFrame s.host.inbox = .incomplete ∧ s.host.inboxClosed = false ∧
      (HostSide.inbox { s.host with inbox := [0x65] }) = [0x65]) := by decide
theorem witness_MiscellaneousResults : (start []).mode = .direct ∧
    ((start []).onPort.mode = .piped ∧ (start []).onPort.host.sentLeft = none) ∧
    Config.prngNext (start []).prng = ((Config.prngNext (start []).prng).1, (Config.prngNext (start []).prng).2) ∧
    (HostSide.clocks { HostSide.fresh with clocks := [⟨59, 59, 23⟩] }) = [⟨59, 59, 23⟩] ∧ (start []).host.clocks = [] :=
  ⟨rfl, ⟨rfl, rfl⟩, rfl, rfl, rfl⟩
theorem witness_SeedFixesRandom : State.dr { start [] with d0 := 5 } .d0 = State.dr { start [] with acc := 5 } .acc := by
  decide
theorem witness_RegisterWriters : exec (.addRR .d0 .d1) (start []) = .next (done (.addRR .d0 .d1) (start [])) := rfl
theorem witness_TrapsArePrecise :
    ((start []).status = .running ∧ exec (.memrW 0xFFFF) (start []) = .next (done (.memrW 0xFFFF) (start [])) ∧
      (done (.memrW 0xFFFF) (start [])).status = .crashed .memOutOfRange) ∧
    (let s : State := { start [] with host := { HostSide.fresh with stdout := ⟨[], some 0⟩ } };
      s.status = .running ∧ exec .prtln s = .next (done .prtln s) ∧ (done .prtln s).status = .crashed .ioBroken) :=
  ⟨⟨rfl, rfl, rfl⟩, rfl, rfl, rfl⟩
theorem witness_TrapEntry :
    ((start []).mode = .direct ∧ OutChannel.Takes ⟨[], some (crashReport .badOpcode (start []).dump).length⟩
      (crashReport .badOpcode (start []).dump).length) ∧
    (start []).onPort.mode = .piped ∧ (start []).onPort.host.sentLeft = none :=
  ⟨⟨rfl, fun _ h => by cases h; exact Nat.le_refl _⟩, rfl, rfl⟩
theorem witness_StepKeepsInvariant : (start [0x59]).Inv ∧ step (start [0x59]) = .next (stepped (start [0x59])) := by
  refine ⟨⟨rfl, ⟨by decide, by decide, by decide⟩, List.nodup_nil, rfl, trivial, fun f h => ?_, Params.standard_wellFormed⟩, rfl⟩
  simp [start, State.reset, State.handle] at h
theorem witness_StepKeepsInvariant_piped :
    (session 2 [] [0x65]).Inv ∧ step (session 2 [] [0x65]) = .next (stepped (session 2 [] [0x65])) := by
  refine ⟨⟨rfl, ⟨by decide, by decide, by decide⟩, List.nodup_nil, ⟨rfl, by decide⟩, trivial, fun f h => ?_,
    Params.standard_wellFormed⟩, rfl⟩
  simp [session, start, State.reset, State.handle] at h
theorem witness_InvariantHoldsAfterBoot : otherParams.wellFormed = true ∧ Image.wellFormed
    ⟨List.replicate 20 0x41, List.replicate 10 0x31, [0x59], [], [0x00]⟩ = true :=
  ⟨by simp [Params.wellFormed, otherParams, shiftedOpcodes_wellFormed], by decide⟩
theorem witness_ImageIsImmutable : step (session 0 [] [0x65]) = .next (stepped (session 0 [] [0x65])) := rfl
theorem witness_EndedRunsRunNothing :
    (Status.ended (.crashed .badOpcode) = true ∧ Status.ended (.halted .endOfOps) = true ∧
      Status.ended .cancelled = true ∧ (start []).mode = .direct ∧ (start []).status.ended = false) ∧
    step { session 0 [] [0x62, 0x00, 0x01] with status := .halted .haltInstr, proto := .halted } =
      .next (stepped { session 0 [] [0x62, 0x00, 0x01] with status := .halted .haltInstr, proto := .halted }) :=
  ⟨by decide, rfl⟩
theorem witness_BreakpointsStopSteps : ((session 1 [1] []).proto = .idle ∧ (session 1 [1] []).status = .running ∧
      (session 1 [1] []).pc ∈ (session 1 [1] []).breakpoints ∧ (session 1 [1] []).host.sentLeft = none) ∧
    ((session 1 [] [0x6B, 7]).mode = .piped ∧ (session 1 [] [0x6B, 7]).host.sessionClosed = false ∧
      (session 1 [] [0x6B, 7]).host.cancelPending = false ∧
      parseFrame (session 1 [] [0x6B, 7]).host.inbox = .frame (.key 7) []) ∧
    (session 1 [] []).proto ≠ .awaitingKey ∧ (session 1 [] []).proto ≠ .awaitingString ∧
    ({ session 1 [] [] with status := .halted .haltInstr, proto := .halted } : State).proto ≠ .idle := by decide
theorem witness_MemoryRequestReplies : (0x0000 : Word).toNat ≤ (0xFFFE : Word).toNat ∧
    (0xFFFE : Word).toNat ≤ (0xFFFE : Word).toNat ∧ (0xFFFE : Word).toNat ≤ 0xFFFE ∧
    (session 0 [] []).host.sentLeft = none := by decide
theorem witness_ProtocolErrorsAndCancellation :
    ((start []).status.ended = false ∧ (HostSide.cancelPending { HostSide.fresh with cancelPending := true }) = true) ∧
    ((session 0 [] []).host.cancelPending = false ∧ (session 0 [] []).mode = .piped ∧
      (HostSide.sessionClosed { HostSide.fresh with sessionClosed := true }) = true ∧
      (session 0 [] []).host.sessionClosed = false) ∧
    parseFrame (session 0 [] [0x00]).host.inbox = .unknown ∧
    (parseFrame (session 0 [] [0x62, 0x00]).host.inbox = .incomplete ∧
      (HostSide.inboxClosed { HostSide.fresh with inboxClosed := true }) = true) ∧
    (parseFrame (session 0 [] [0x6D, 0, 0, 0xFF, 0xFF]).host.inbox = .frame (.requestMemory 0 0xFFFF) [] ∧
      0xFFFE < (0xFFFF : Word).toNat) ∧
    (parseFrame (session 0 [] [0x6D, 0, 1, 0, 0]).host.inbox = .frame (.requestMemory 1 0) [] ∧
      (0 : Word).toNat < (1 : Word).toNat) := by decide
theorem witness_TapeFileRoundTrip : otherParams.magic.length = 3 ∧ Image.wellFormed
      ⟨List.replicate 20 0x41, List.replicate 10 0x31, [0x59], [0x00], []⟩ = true ∧
    parseImage otherParams.magic [1, 2, 3, 0, 0, 0, 0, 0, 0, 0, 0] = .ok ⟨[], [], [], [], []⟩ ∧
    parseImage otherParams.magic [1, 2, 3, 0, 0, 0, 0, 0, 0, 0] = .error .short := ⟨rfl, by decide, rfl, rfl⟩
theorem witness_StateAfterReset : RunMode.piped = .piped → (⟨[], [], [0x59], [], []⟩ : Image).ops ≠ [] := by decide

end Sys2Proof.Machine
end

section
/-! SUPPORT. The decoder as one check after another: which bytes have a format, what stands where the opcode is
assigned, and the register check against the operand bytes the table calls legal (30_encoding.md R85 to R88). -/
namespace Sys2Proof

/-- Every byte of the table has a format. -/
theorem formatOf_isSome_of_mem {c : Byte} (h : c ∈ tableOpcodes) : (formatOf c).isSome := by
  obtain ⟨k, hk, rfl⟩ := List.mem_map.1 h
  rw [List.mem_range, Config.opcodeCount] at hk
  interval_cases k <;> rfl

/-- A byte outside the table meets none of its rows and falls to the last arm. -/
theorem formatOf_of_not_mem {c : Byte} (h : c ∉ tableOpcodes) : formatOf c = none := by
  rw [mem_tableOpcodes, Config.opcodeCount] at h
  simp only [formatOf, opcodeRow]
  split
  case h_94 => rfl
  all_goals omega

theorem formatOf_eq_none_iff (c : Byte) : formatOf c = none ↔ c ∉ tableOpcodes :=
  ⟨fun h hc => by simpa [h] using formatOf_isSome_of_mem hc, formatOf_of_not_mem⟩

/-- Under a well-formed map the bytes without a format are those it gives no row (30_encoding.md R87). -/
theorem formatWith_eq_none_iff {m : OpcodeMap} (h : OpcodeMap.wellFormed m = true) (op : Byte) :
    formatWith m op = none ↔ op ∉ m.map Prod.fst := by
  rw [formatWith, formatOf_eq_none_iff]
  constructor
  · exact mt fun ho => (tableOpcode_mem h ho).2
  · intro ho
    rw [tableOpcode_of_not_mem ho]
    decide

/-- The row found for the bytes of an instruction has the format of its opcode byte. -/
theorem exists_opcodeRow_of_formatOf {op : Byte} {f : Format} (h : formatOf op = some f) (b : Nat → Byte)
    (hb : b 0 = op) : ∃ i, opcodeRow b = some (f, i) := by
  obtain ⟨r, hr, rfl⟩ := Option.map_eq_some_iff.1 h
  exact opcodeRow_format (fun _ => op) b (by rw [hb]) r hr

/-- No row is found for bytes whose opcode byte has no format. -/
theorem opcodeRow_eq_none_of_formatOf {op : Byte} (h : formatOf op = none) (b : Nat → Byte) (hb : b 0 = op) :
    opcodeRow b = none := by
  cases e : opcodeRow b with
  | none => rfl
  | some r =>
    obtain ⟨i, hi⟩ := opcodeRow_format b (fun _ => op) (by rw [hb]) r e
    simp [formatOf, hi] at h

/-- The first check: an opcode byte without a format is refused as one, whatever follows it. -/
theorem decode_of_formatOf_none {op : Byte} (h : formatOf op = none) (rest : List Byte) :
    decode (op :: rest) = .error .badOpcode := by
  simp only [decode, opcodeRow_eq_none_of_formatOf h (fun i => (op :: rest).getD i 0) rfl]

/-- The checks after the opcode, in their order: length, then registers, then no other. -/
theorem decode_of_formatOf_some {op : Byte} {f : Format} (h : formatOf op = some f) (rest : List Byte) :
    ∃ i, decode (op :: rest) =
      if rest.length + 1 < f.length then .error .truncated
      else if registersOk f.fields rest then .ok (i, rest.drop (f.length - 1))
      else .error .badRegister := by
  obtain ⟨i, hi⟩ := exists_opcodeRow_of_formatOf h (fun i => (op :: rest).getD i 0) rfl
  have hdrop : (op :: rest).drop f.length = rest.drop (f.length - 1) := by
    simp [Format.length, Nat.add_comm 1]
  refine ⟨i, ?_⟩
  simp only [decode, hi, List.length_cons, hdrop]

theorem decode_eq_badOpcode_iff (op : Byte) (rest : List Byte) :
    decode (op :: rest) = .error .badOpcode ↔ formatOf op = none := by
  refine ⟨fun h => ?_, fun h => decode_of_formatOf_none h rest⟩
  cases e : formatOf op with
  | none => rfl
  | some f =>
    obtain ⟨i, hi⟩ := decode_of_formatOf_some e rest
    rw [hi] at h
    split_ifs at h <;> simp at h

/-- Where the operand bytes are all there, the decoder's register checks accept what R88 calls legal. -/
theorem registersOk_eq_operandsLegal (ks : List FieldKind) (bs : List Byte)
    (h : (ks.map FieldKind.size).sum ≤ bs.length) : registersOk ks bs = operandsLegal ks bs := by
  induction ks generalizing bs with
  | nil => simp [registersOk, operandsLegal]
  | cons k ks ih =>
    rw [List.map_cons, List.sum_cons] at h
    have hrest : registersOk ks (bs.drop k.size) = operandsLegal ks (bs.drop k.size) :=
      ih _ (by rw [List.length_drop]; omega)
    cases k with
    | dataReg | addrReg | num =>
      obtain _ | ⟨b, bs⟩ := bs
      · simp [FieldKind.size] at h
      · simp only [FieldKind.size, List.drop_succ_cons, List.drop_zero] at hrest
        simp [registersOk, operandsLegal, FieldKind.size, hrest]
    | addr | stringId | dataId =>
      obtain _ | ⟨b, _ | ⟨c, bs⟩⟩ := bs
      · simp [FieldKind.size] at h
      · simp only [FieldKind.size, List.length_singleton] at h; omega
      · simpa [registersOk, operandsLegal, FieldKind.size] using hrest

/-- The register check of an instruction that is not truncated. -/
theorem registersOk_of_length_le {f : Format} {rest : List Byte} (h : f.length ≤ rest.length + 1) :
    registersOk f.fields rest = operandsLegal f.fields rest :=
  registersOk_eq_operandsLegal _ _ (by rw [Format.length] at h; omega)

theorem decodeWith_cons (m : OpcodeMap) (op : Byte) (rest : List Byte) :
    decodeWith m (op :: rest) = decode (tableOpcode m op :: rest) := rfl

theorem decodeWith_eq_badOpcode_iff {m : OpcodeMap} (h : OpcodeMap.wellFormed m = true) (op : Byte)
    (rest : List Byte) : decodeWith m (op :: rest) = .error .badOpcode ↔ op ∉ m.map Prod.fst := by
  rw [decodeWith_cons, decode_eq_badOpcode_iff, ← formatWith_eq_none_iff h, formatWith]

/-- Settles O5: the opcode by `decodeWith_eq_badOpcode_iff`, then the branches of `decode_of_formatOf_some`. -/
theorem lengthIsCheckedBeforeRegisters : Obligations.LengthIsCheckedBeforeRegisters := by
  unfold Obligations.LengthIsCheckedBeforeRegisters
  intro m op rest
  refine ⟨fun hm => decodeWith_eq_badOpcode_iff hm op rest, fun f hf => ?_⟩
  obtain ⟨i, hdecode⟩ := decode_of_formatOf_some hf rest
  rw [← decodeWith_cons] at hdecode
  refine ⟨fun hshort => ?_, fun hlong hbad => ?_, fun hlong hlegal => ⟨i, ?_⟩⟩
  · rw [hdecode, if_pos hshort]
  · rw [hdecode, if_neg (by omega), registersOk_of_length_le hlong, hbad, if_neg Bool.false_ne_true]
  · rw [hdecode, if_neg (by omega), registersOk_of_length_le hlong, hlegal, if_pos rfl]

end Sys2Proof
end

section
/-! SUPPORT. Every shared operation of an instruction, and so every instruction, answers a next state: a failed check
takes a trap, which is one (00_scope.md R10, 60_exceptions.md R302). -/
namespace Sys2Proof.Machine

/-- The operation answers a next state: it neither faults nor is refused. -/
def Answers (r : StepResult) : Prop := ∃ t, r = .next t

theorem next_answers (t : State) : Answers (.next t) := ⟨t, rfl⟩

section
variable (s : State)

/-- A failed check traps, so a checked operation answers where what follows the check does. -/
theorem require_answers (c : Bool) (k : TrapKind) {rest : StepResult} (h : Answers rest) :
    Answers (require c k s rest) := by
  cases c
  · exact next_answers (s.takeTrap k)
  · exact h

theorem printBytes_answers (bs : List Byte) (f : Format) : Answers (printBytes bs f s) := by
  unfold printBytes
  split
  · dsimp only
    split <;> exact next_answers _
  · exact next_answers _

theorem printDump_answers (f : Format) : Answers (printDump f s) := by
  unfold printDump
  dsimp only
  split
  · split <;> exact next_answers _
  · exact next_answers _

theorem loadOffset_answers (x : AddrReg) (f : Format) (r : Except TrapKind Nat) : Answers (loadOffset x f r s) := by
  cases r <;> exact next_answers _

theorem loadLength_answers (f : Format) (r : Except TrapKind Byte) : Answers (loadLength f r s) := by
  cases r <;> exact next_answers _

theorem callTo_answers (target : Word) (f : Format) : Answers (callTo target f s) :=
  require_answers s _ _ (next_answers _)

theorem pollTo_answers (target : Word) (f : Format) : Answers (pollTo target f s) :=
  next_answers _

theorem readLineTo_answers (a : Word) (f : Format) : Answers (readLineTo a f s) := by
  refine require_answers s _ _ ?_
  split <;> exact next_answers _

theorem fileReadTo_answers (f : Byte) (a : Nat) (fmt : Format) : Answers (fileReadTo f a fmt s) := by
  refine require_answers s _ _ ?_
  split <;> exact next_answers _

theorem fileWriteBytes_answers (f : Byte) (bs : List Byte) (fmt : Format) :
    Answers (fileWriteBytes f bs fmt s) := by
  unfold fileWriteBytes
  split <;> exact next_answers _

theorem fileWriteFrom_answers (f : Byte) (a : Nat) (fmt : Format) : Answers (fileWriteFrom f a fmt s) :=
  require_answers s _ _ (fileWriteBytes_answers s f _ fmt)

theorem fileBranch_answers (f : Byte) (target : Word) (fmt : Format) : Answers (fileBranch f target fmt s) :=
  next_answers _

theorem execFopenN_answers (x : Num) : Answers (execFopenN x s) := by
  unfold execFopenN
  split <;> exact next_answers _

theorem execFskipNR_answers (x : Num) (y : DataReg) : Answers (execFskipNR x y s) := by
  unfold execFskipNR
  split <;> exact next_answers _

theorem execFseekN_answers (x : Num) : Answers (execFseekN x s) := by
  unfold execFseekN
  split <;> exact next_answers _

theorem execRchrR_answers (x : DataReg) : Answers (execRchrR x s) := by
  unfold execRchrR
  split <;> exact next_answers _

/-- Every instruction answers, by the shared operation it ends in. -/
theorem exec_answers (i : Instr) : Answers (exec i s) := by
  cases i with
  | addRR | addRN | subRR | subRN | incR | incA | decR | decA | andRR | andRN | orRR | orRN | xorRR | xorRN | notR
  | cpyRR | cpyRN | cpyAA | cpyAW | cpyARR | cpyRRA | swpRR | swpAA | cmpRR | cmpRN | cmpAA
  | jmpW | jmpA | jeW | jeA | jneW | jneA | jlW | jlA | jgW | jgA | overW | overA | noverW | noverA
  | nop | halt | randR | seedR | time => exact next_answers _
  | addRA | subRA | cpyRA | cmpRA | memrW | memrA | memwW | memwA
  | ret | pushR | pushN | pushA | popR | popA | argRN | argAN =>
    exact require_answers s _ _ (next_answers _)
  | memcAA => exact require_answers s _ _ (require_answers s _ _ (next_answers _))
  | ldATNN | ldATRR => exact loadOffset_answers s _ _ _
  | lenTN | lenTR => exact loadLength_answers s _ _
  | callW | callA => exact callTo_answers s _ _
  | prtR | prtN | prtcR | prtcN | prtln => exact printBytes_answers s _ _
  | prtsS => exact require_answers s _ _ (require_answers s _ _ (printBytes_answers s _ _))
  | prtdA | mempA => exact require_answers s _ _ (printBytes_answers s _ _)
  | debug => exact printDump_answers s _
  | fopenN x => exact execFopenN_answers s x
  | filerNW | filerNA => exact fileReadTo_answers s _ _ _
  | filewNW | filewNA => exact fileWriteFrom_answers s _ _ _
  | filewNR | filewNN => exact fileWriteBytes_answers s _ _ _
  | fskipNR x y => exact execFskipNR_answers s x y
  | fseekN x => exact execFseekN_answers s x
  | fchkNW | fchkNA => exact fileBranch_answers s _ _ _
  | ipollW | ipollA => exact pollTo_answers s _ _
  | rchrR x => exact execRchrR_answers s x
  | rstrW | rstrA => exact readLineTo_answers s _ _

end

/-- Settles O51, by the answer of each instruction's shared operation (`exec_answers`). -/
theorem execAlwaysAnswers : Obligations.ExecAlwaysAnswers := by
  unfold Obligations.ExecAlwaysAnswers
  exact fun i s => exec_answers s i

end Sys2Proof.Machine
end

section
/-! SUPPORT. What an instruction can do, said once: writes that its row of the writer table allows (10_state.md R29),
and at most one stop after them, a trap, a halt or a wait. -/
namespace Sys2Proof.Machine

/-! ### the writes of an instruction -/

/-- A state that instruction `i`, begun in `s`, can have written so far: only the registers its row of the writer table
names, PC, MEM, the generator, the input buffers, the host's side with as many files as before, and handles that stay
closed where the host has no such file. -/
inductive Writes (i : Instr) (s : State) : State → Prop
  | refl : Writes i s s
  | pc {t} (h : Writes i s t) (v : Word) : Writes i s { t with pc := v }
  | dr {t} (h : Writes i s t) {r : DataReg} (hr : r ∈ dataTargets i) (v : Byte) : Writes i s (t.setDr r v)
  | ar {t} (h : Writes i s t) {a : AddrReg} (ha : a ∈ addrTargets i) (v : Word) : Writes i s (t.setAr a v)
  | sp {t} (h : Writes i s t) (hi : writesSp i = true) (v : Word) : Writes i s { t with sp := v }
  | fp {t} (h : Writes i s t) (hi : writesFp i = true) (v : Word) : Writes i s { t with fp := v }
  | ov {t} (h : Writes i s t) (hi : writesOv i = true) (v : Bool) : Writes i s { t with ov := v }
  | mem {t} (h : Writes i s t) (a : Nat) (bs : List Byte) : Writes i s { t with mem := t.mem.writeBytes a bs }
  | prng {t} (h : Writes i s t) (v : Nat) : Writes i s { t with prng := v }
  | buffers {t} (h : Writes i s t) (ks : List Byte) (ls : List (List Byte)) :
      Writes i s { t with keybuf := ks, strbuf := ls }
  | host {t} (h : Writes i s t) {g : HostSide} (hg : g.files.length = t.host.files.length) :
      Writes i s { t with host := g }
  | handle {t} (h : Writes i s t) (f : Byte) {x : FileHandle}
      (hx : x.opened = true → (t.handle f).opened = true ∨ f.toNat < t.host.files.length) :
      Writes i s (t.setHandle f x)

/-- How a run leaves Running: a trap, a clean end, or a wait, for a line with its buffer in MEM and the length of an
RSTR. -/
inductive Stops (s : State) : State → Prop
  | trap (k : TrapKind) : Stops s (s.takeTrap k)
  | halt (r : HaltReason) : Stops s (s.halt r)
  | key (x : DataReg) : Stops s (s.waitForKey x)
  | line (a : Word) (f : Format) (ha : a.toNat + 255 ≤ 65535) (hf : f.length = 2 ∨ f.length = 3) :
      Stops s (s.waitForLine a f)

/-- What an instruction begun in `s` leaves: its writes, and perhaps a stop after them. -/
inductive Effect (i : Instr) (s : State) : State → Prop
  | goes {t} (h : Writes i s t) : Effect i s t
  | stops {t u} (h : Writes i s t) (hs : Stops t u) : Effect i s u

/-- The answer is one that instruction `i`, begun in `s`, can give. -/
def Performs (i : Instr) (s : State) (r : StepResult) : Prop := ∀ t, r = .next t → Effect i s t

/-! ### the host's files -/

@[simp] theorem State.emit_files (s : State) (f : DeviceFrame) : (s.emit f).host.files = s.host.files := by
  unfold State.emit; split <;> rfl

@[simp] theorem State.emitAll_files (s : State) (fs : List DeviceFrame) :
    (s.emitAll fs).host.files = s.host.files := by
  induction fs generalizing s with
  | nil => rfl
  | cons f fs ih => exact (ih (s.emit f)).trans (s.emit_files f)

@[simp] theorem State.takeTrap_files (s : State) (k : TrapKind) : (s.takeTrap k).host.files = s.host.files := by
  unfold State.takeTrap; split <;> simp

@[simp] theorem State.halt_files (s : State) (r : HaltReason) : (s.halt r).host.files = s.host.files := by
  unfold State.halt; split <;> simp

@[simp] theorem State.waitForKey_files (s : State) (x : DataReg) : (s.waitForKey x).host.files = s.host.files := by
  unfold State.waitForKey; dsimp only; split <;> simp

@[simp] theorem State.waitForLine_files (s : State) (a : Word) (f : Format) :
    (s.waitForLine a f).host.files = s.host.files := by
  unfold State.waitForLine; dsimp only; split <;> simp

@[simp] theorem HostSide.limit_files (h : HostSide) (k : Nat) : (h.limit k).2.files = h.files := by
  unfold HostSide.limit; split <;> rfl

@[simp] theorem HostSide.fileRead_files (h : HostSide) (f : Byte) (p n : Nat) :
    (h.fileRead f p n).2.files = h.files :=
  h.limit_files _

@[simp] theorem HostSide.fileSkip_files (h : HostSide) (f : Byte) (p n : Nat) :
    (h.fileSkip f p n).2.files = h.files :=
  h.limit_files _

theorem HostSide.fileWrite_files_length (h : HostSide) (f : Byte) (p : Nat) (bs : List Byte) :
    (h.fileWrite f p bs).2.files.length = h.files.length := by
  unfold HostSide.fileWrite; split <;> simp

@[simp] theorem HostSide.fileOpen_files (h : HostSide) (f : Byte) : (h.fileOpen f).2.files = h.files := by
  unfold HostSide.fileOpen; dsimp only; split <;> rfl

/-- Only a file of the host's list is opened. -/
theorem HostSide.lt_of_fileOpen (h : HostSide) (f : Byte) (e : (h.fileOpen f).1 = true) :
    f.toNat < h.files.length := by
  cases hf : h.files[f.toNat]? with
  | some x => exact (List.getElem?_eq_some_iff.1 hf).1
  | none => cases ho : h.openAnswers <;> simp [HostSide.fileOpen, hf, ho] at e

/-! ### requests to the host -/

/-- `t` is `s` after a request to the host or frames sent to it: the input buffers and the host's side have moved on,
with the same files, and the core is as it was. -/
inductive Requests (s : State) : State → Prop
  | intro (ks : List Byte) (ls : List (List Byte)) (g : HostSide) (hg : g.files = s.host.files) :
      Requests s { s with keybuf := ks, strbuf := ls, host := g }

theorem Requests.host (s : State) {g : HostSide} (hg : g.files = s.host.files) : Requests s { s with host := g } :=
  .intro s.keybuf s.strbuf g hg

theorem State.keyReady_requests (s : State) : Requests s s.keyReady.2 := by
  unfold State.keyReady
  split
  · exact .host s rfl
  · split
    · exact .host s (by rfl)
    · exact .host s (by rfl)

theorem State.takeKey_requests (s : State) : Requests s s.takeKey.2 := by
  unfold State.takeKey
  split <;> split
  · exact .intro _ s.strbuf s.host rfl
  · exact .host s rfl
  · exact .host s (by rfl)
  · exact .host s rfl

theorem State.takeLine_requests (s : State) : Requests s s.takeLine.2 := by
  unfold State.takeLine
  split <;> split
  · exact .intro s.keybuf _ s.host rfl
  · exact .host s rfl
  · exact .host s (by rfl)
  · exact .host s rfl

theorem State.readClock_requests (s : State) : Requests s s.readClock.2 := by
  unfold State.readClock
  split
  · exact .host s (by rfl)
  · exact .host s (by rfl)

theorem State.emitAll_requests (s : State) (fs : List DeviceFrame) : Requests s (s.emitAll fs) := by
  obtain ⟨g, e⟩ := s.emitAll_eq fs
  have hg := s.emitAll_files fs
  rw [e] at hg ⊢
  exact .host s hg

theorem State.emit_requests (s : State) (f : DeviceFrame) : Requests s (s.emit f) := s.emitAll_requests [f]


section
variable {i : Instr} {s t u : State}

/-! ### the named updates are such writes -/

theorem Writes.advance (h : Writes i s t) (f : Format) : Writes i s (t.advance f) := h.pc _

theorem Writes.aluWrite8 (h : Writes i s t) (hr : .acc ∈ dataTargets i) (hi : writesOv i = true) (r : Int) :
    Writes i s (t.aluWrite8 r) :=
  (h.dr hr _).ov hi _

theorem Writes.aluWrite16 (h : Writes i s t) {a : AddrReg} (ha : a ∈ addrTargets i) (hi : writesOv i = true)
    (r : Int) : Writes i s (t.aluWrite16 a r) :=
  (h.ar ha _).ov hi _

theorem Writes.push8 (h : Writes i s t) (hi : writesSp i = true) (v : Byte) : Writes i s (t.push8 v) :=
  (h.sp hi (t.sp - 1)).mem (t.sp - 1).toNat [v]

theorem Writes.push16 (h : Writes i s t) (hi : writesSp i = true) (v : Word) : Writes i s (t.push16 v) :=
  (h.push8 hi _).push8 hi _

theorem Writes.dropBytes (h : Writes i s t) (hi : writesSp i = true) (n : Nat) : Writes i s (t.dropBytes n) :=
  h.sp hi _

theorem Writes.storeLine (h : Writes i s t) (hr : .acc ∈ dataTargets i) (a : Word) (l : List Byte) :
    Writes i s (t.storeLine a l) :=
  (h.mem _ _).dr hr _

theorem Writes.setSize (h : Writes i s t) (hr : ∀ r, r ≠ .acc → r ∈ dataTargets i) (v : BitVec 32) :
    Writes i s (t.setSize v) :=
  (((h.dr (hr .d3 nofun) (v.extractLsb' 24 8)).dr (hr .d2 nofun) (v.extractLsb' 16 8)).dr (hr .d1 nofun)
    (v.extractLsb' 8 8)).dr (hr .d0 nofun) (v.extractLsb' 0 8)

theorem Writes.setCursor (h : Writes i s t) (f : Byte) (c : BitVec 32) :
    Writes i s (t.setHandle f { t.handle f with cursor := c }) :=
  h.handle f .inl

theorem Writes.bumpCursor (h : Writes i s t) (f : Byte) (k : Nat) : Writes i s (t.bumpCursor f k) :=
  h.setCursor f _

theorem Writes.requests (h : Writes i s t) (hu : Requests t u) : Writes i s u := by
  obtain ⟨ks, ls, _, hg⟩ := hu
  exact (h.buffers ks ls).host (congrArg _ hg)

/-- A handle is opened on demand only where the host's list has the file. -/
theorem Writes.avail (h : Writes i s t) (f : Byte) : Writes i s (t.avail f).2 := by
  have hopen : Writes i s { t with host := (t.host.fileOpen f).2 } := h.host (congrArg _ (t.host.fileOpen_files f))
  unfold State.avail
  split
  · exact h
  · dsimp only
    split
    · exact hopen.handle f fun _ => .inr (by simpa using t.host.lt_of_fileOpen f ‹_›)
    · exact hopen

/-! ### what each shared operation performs -/

theorem Effect.performs (h : Effect i s t) : Performs i s (.next t) :=
  fun _ e => Host.Outcome.next.inj e ▸ h

theorem Writes.performs (h : Writes i s t) : Performs i s (.next t) := (Effect.goes h).performs

theorem Stops.performs (h : Stops s t) : Performs i s (.next t) := (Effect.stops .refl h).performs

/-- A checked instruction takes the trap, or does what follows a check that held. -/
theorem require_performs {c : Bool} (k : TrapKind) {rest : StepResult} (h : c = true → Performs i s rest) :
    Performs i s (require c k s rest) := by
  cases c with
  | true => exact h rfl
  | false => exact (Stops.trap k).performs

theorem printBytes_performs (bs : List Byte) (f : Format) : Performs i s (printBytes bs f s) := by
  have hout (c : OutChannel) : Writes i s { s with host := { s.host with stdout := c } } := .host .refl rfl
  unfold printBytes
  split
  · dsimp only
    split
    · exact ((hout _).advance f).performs
    · exact (Effect.stops (hout _) (.trap .ioBroken)).performs
  · exact ((Writes.refl.requests (s.emitAll_requests _)).advance f).performs

theorem printDump_performs (f : Format) : Performs i s (printDump f s) := by
  have herr (c : OutChannel) : Writes i s { s with host := { s.host with stderr := c } } := .host .refl rfl
  unfold printDump
  dsimp only
  split
  · split
    · exact ((herr _).advance f).performs
    · exact (Effect.stops (herr _) (.trap .ioBroken)).performs
  · exact ((Writes.refl.requests (s.emit_requests _)).advance f).performs

theorem loadOffset_performs {x : AddrReg} (hx : x ∈ addrTargets i) (f : Format) (r : Except TrapKind Nat) :
    Performs i s (loadOffset x f r s) := by
  cases r with
  | ok a => exact ((Writes.refl.advance f).ar hx _).performs
  | error k => exact (Stops.trap k).performs

theorem loadLength_performs (hx : .acc ∈ dataTargets i) (f : Format) (r : Except TrapKind Byte) :
    Performs i s (loadLength f r s) := by
  cases r with
  | ok v => exact ((Writes.refl.advance f).dr hx _).performs
  | error k => exact (Stops.trap k).performs

theorem callTo_performs (hsp : writesSp i = true) (hfp : writesFp i = true) (target : Word) (f : Format) :
    Performs i s (callTo target f s) := by
  have hpush : Writes i s (s.push16 (s.pcn f)) := Writes.refl.push16 hsp _
  refine require_performs _ fun _ => ?_
  generalize s.push16 (s.pcn f) = t at hpush ⊢
  exact ((hpush.fp hfp t.sp).pc target).performs

theorem pollTo_performs (target : Word) (f : Format) : Performs i s (pollTo target f s) :=
  ((Writes.refl.requests s.keyReady_requests).pc _).performs

/-- RSTR waits with its buffer in MEM, by the check it has passed. -/
theorem readLineTo_performs (hr : .acc ∈ dataTargets i) (a : Word) {f : Format} (hf : f.length = 2 ∨ f.length = 3) :
    Performs i s (readLineTo a f s) := by
  refine require_performs _ fun hc => ?_
  have hw : Writes i s s.takeLine.2 := Writes.refl.requests s.takeLine_requests
  split <;> rename_i heq <;> rw [heq] at hw
  · exact ((hw.advance f).storeLine hr a _).performs
  · exact (Effect.stops hw (.line a f ((rangeOk_iff _ _ _).1 hc).2 hf)).performs

theorem fileReadTo_performs (hr : .acc ∈ dataTargets i) (f : Byte) (a : Nat) (fmt : Format) :
    Performs i s (fileReadTo f a fmt s) := by
  refine require_performs _ fun _ => ?_
  have hw : Writes i s (s.avail f).2 := Writes.refl.avail f
  split <;> rename_i heq <;> rw [heq] at hw
  · exact ((hw.advance fmt).dr hr 0).performs
  · exact (((((hw.advance fmt).host (congrArg _ (HostSide.fileRead_files _ _ _ _))).mem _ _).dr hr _).bumpCursor
      f _).performs

theorem fileWriteBytes_performs (hr : .acc ∈ dataTargets i) (f : Byte) (bs : List Byte) (fmt : Format) :
    Performs i s (fileWriteBytes f bs fmt s) := by
  have hw : Writes i s (s.avail f).2 := Writes.refl.avail f
  unfold fileWriteBytes
  split <;> rename_i heq <;> rw [heq] at hw
  · exact ((hw.advance fmt).dr hr 0).performs
  · exact ((((hw.advance fmt).host (HostSide.fileWrite_files_length _ _ _ _)).dr hr _).bumpCursor f _).performs

theorem fileWriteFrom_performs (hr : .acc ∈ dataTargets i) (f : Byte) (a : Nat) (fmt : Format) :
    Performs i s (fileWriteFrom f a fmt s) :=
  require_performs _ fun _ => fileWriteBytes_performs hr f _ fmt

theorem fileBranch_performs (f : Byte) (target : Word) (fmt : Format) : Performs i s (fileBranch f target fmt s) :=
  ((Writes.refl.avail f).pc _).performs

end

/-! ### what each instruction performs -/

section
variable (s : State)

theorem execFopenN_performs (x : Num) : Performs (.fopenN x) s (execFopenN x s) := by
  have hw : Writes (.fopenN x) s (s.avail x).2 := Writes.refl.avail x
  have hr (r : DataReg) (hne : r ≠ .acc) : r ∈ dataTargets (.fopenN x) := by
    change r ∈ [DataReg.d0, .d1, .d2, .d3]
    cases r <;> simp at hne ⊢
  unfold execFopenN
  split <;> rename_i heq <;> rw [heq] at hw <;> exact ((hw.advance .n).setSize hr _).performs

theorem execFskipNR_performs (x : Num) (y : DataReg) : Performs (.fskipNR x y) s (execFskipNR x y s) := by
  have hw : Writes (.fskipNR x y) s (s.avail x).2 := Writes.refl.avail x
  unfold execFskipNR
  split <;> rename_i heq <;> rw [heq] at hw
  · exact ((hw.advance .nr).dr (.head _) 0).performs
  · exact ((((hw.advance .nr).host (congrArg _ (HostSide.fileSkip_files _ _ _ _))).dr (.head _) _).bumpCursor
      x _).performs

theorem execFseekN_performs (x : Num) : Performs (.fseekN x) s (execFseekN x s) := by
  have hw : Writes (.fseekN x) s (s.avail x).2 := Writes.refl.avail x
  unfold execFseekN
  split <;> rename_i heq <;> rw [heq] at hw
  · exact ((hw.advance .n).setCursor x _).performs
  · exact (hw.advance .n).performs

theorem execRchrR_performs (x : DataReg) : Performs (.rchrR x) s (execRchrR x s) := by
  have hw : Writes (.rchrR x) s s.takeKey.2 := Writes.refl.requests s.takeKey_requests
  unfold execRchrR
  split <;> rename_i heq <;> rw [heq] at hw
  · exact ((hw.advance .r).dr (.head _) _).performs
  · exact (Effect.stops hw (.key x)).performs

theorem execTime_performs : Performs .time s (execTime s) := by
  have hw : Writes .time s s.readClock.2 := Writes.refl.requests s.readClock_requests
  unfold execTime
  generalize s.readClock = p at hw ⊢
  exact ((((hw.advance .bare).dr (r := .d0) (by decide) p.1.seconds).dr (r := .d1) (by decide) p.1.minutes).dr
    (r := .d2) (by decide) p.1.hours).performs

/-- Every instruction writes what the writer table names for it and stops in no other way, by the shared operation it
ends in. -/
theorem exec_performs (i : Instr) : Performs i s (exec i s) := by
  cases i with
  | addRR | addRN | subRR | subRN | incR | decR =>
    exact ((Writes.refl.advance _).aluWrite8 (.head _) rfl _).performs
  | addRA | subRA =>
    exact require_performs _ fun _ => ((Writes.refl.advance _).aluWrite8 (.head _) rfl _).performs
  | incA | decA => exact ((Writes.refl.advance _).aluWrite16 (.head _) rfl _).performs
  | andRR | andRN | orRR | orRN | xorRR | xorRN | notR | cmpRR | cmpRN | cmpAA | cpyRR | cpyRN =>
    exact ((Writes.refl.advance _).dr (.head _) _).performs
  | cpyRA | cmpRA | memrW | memrA | argRN =>
    exact require_performs _ fun _ => ((Writes.refl.advance _).dr (.head _) _).performs
  | cpyAA | cpyAW | cpyARR => exact ((Writes.refl.advance _).ar (.head _) _).performs
  | argAN => exact require_performs _ fun _ => ((Writes.refl.advance _).ar (.head _) _).performs
  | cpyRRA | swpRR => exact (((Writes.refl.advance _).dr (.head _) _).dr (.tail _ (.head _)) _).performs
  | swpAA => exact (((Writes.refl.advance _).ar (.head _) _).ar (.tail _ (.head _)) _).performs
  | memwW | memwA => exact require_performs _ fun _ => ((Writes.refl.advance _).mem _ [s.acc]).performs
  | memcAA =>
    exact require_performs _ fun _ => require_performs _ fun _ => ((Writes.refl.advance _).mem _ _).performs
  | ldATNN | ldATRR => exact loadOffset_performs (.head _) _ _
  | lenTN | lenTR => exact loadLength_performs (.head _) _ _
  | jmpW | jmpA | jeW | jeA | jneW | jneA | jlW | jlA | jgW | jgA | overW | overA | noverW | noverA | nop =>
    exact (Writes.refl.pc _).performs
  | callW | callA => exact callTo_performs rfl rfl _ _
  | ret => exact require_performs _ fun _ => ((Writes.refl.dropBytes rfl 2).pc _).performs
  | pushR | pushN => exact require_performs _ fun _ => ((Writes.refl.advance _).push8 rfl _).performs
  | pushA => exact require_performs _ fun _ => ((Writes.refl.advance _).push16 rfl _).performs
  | popR => exact require_performs _ fun _ => (((Writes.refl.advance _).dropBytes rfl 1).dr (.head _) _).performs
  | popA => exact require_performs _ fun _ => (((Writes.refl.advance _).dropBytes rfl 2).ar (.head _) _).performs
  | prtR | prtN | prtcR | prtcN | prtln => exact printBytes_performs _ _
  | prtsS => exact require_performs _ fun _ => require_performs _ fun _ => printBytes_performs _ _
  | prtdA | mempA => exact require_performs _ fun _ => printBytes_performs _ _
  | debug => exact printDump_performs _
  | fopenN x => exact execFopenN_performs s x
  | filerNW | filerNA => exact fileReadTo_performs (.head _) _ _ _
  | filewNW | filewNA => exact fileWriteFrom_performs (.head _) _ _ _
  | filewNR | filewNN => exact fileWriteBytes_performs (.head _) _ _ _
  | fskipNR x y => exact execFskipNR_performs s x y
  | fseekN x => exact execFseekN_performs s x
  | fchkNW | fchkNA => exact fileBranch_performs _ _ _
  | ipollW | ipollA => exact pollTo_performs _ _
  | rchrR x => exact execRchrR_performs s x
  | rstrW => exact readLineTo_performs (.head _) _ (.inr rfl)
  | rstrA => exact readLineTo_performs (.head _) _ (.inl rfl)
  | halt => exact (Effect.stops (Writes.refl.advance _) (.halt .haltInstr)).performs
  | randR => exact (((Writes.refl.advance _).dr (.head _) _).prng _).performs
  | seedR => exact ((Writes.refl.advance _).prng _).performs
  | time => exact execTime_performs s

end

end Sys2Proof.Machine
end

section
/-! SUPPORT. The writer table of the whole machine (10_state.md R29): read off the writes of an instruction, as no stop
writes a register. -/
namespace Sys2Proof.Machine

/-- A stop changes the status, the port and the host's side alone, and keeps the host's files. -/
theorem Stops.eq {s t : State} (h : Stops s t) :
    ∃ st p g, t = { s with status := st, proto := p, host := g } ∧ g.files = s.host.files := by
  cases h with
  | trap k =>
    obtain ⟨p, g, e⟩ := s.takeTrap_eq k
    exact ⟨_, p, g, e, by simpa [e] using s.takeTrap_files k⟩
  | halt r =>
    obtain ⟨p, g, e⟩ := s.halt_eq r
    exact ⟨_, p, g, e, by simpa [e] using s.halt_files r⟩
  | key x =>
    obtain ⟨p, g, e⟩ := s.waitForKey_eq x
    exact ⟨_, p, g, e, by simpa [e] using s.waitForKey_files x⟩
  | line a f =>
    obtain ⟨p, g, e⟩ := s.waitForLine_eq a f
    exact ⟨_, p, g, e, by simpa [e] using s.waitForLine_files a f⟩

/-- `t` differs from `s` in no register but PC and those that instruction `i` may write. -/
structure KeepsRegisters (i : Instr) (s t : State) : Prop where
  dr : ∀ r, r ∉ dataTargets i → t.dr r = s.dr r
  ar : ∀ a, a ∉ addrTargets i → t.ar a = s.ar a
  sp : writesSp i = false → t.sp = s.sp
  fp : writesFp i = false → t.fp = s.fp
  ov : writesOv i = false → t.ov = s.ov

section
variable {i : Instr} {s t : State}

theorem Writes.keepsRegisters (h : Writes i s t) : KeepsRegisters i s t := by
  induction h with
  | refl => exact ⟨fun _ _ => rfl, fun _ _ => rfl, fun _ => rfl, fun _ => rfl, fun _ => rfl⟩
  | dr _ hr v ih =>
    refine ⟨fun q hq => ?_, by simpa using ih.ar, by simpa using ih.sp, by simpa using ih.fp, by simpa using ih.ov⟩
    rw [State.setDr_dr_ne _ _ _ _ (ne_of_mem_of_not_mem hr hq).symm, ih.dr q hq]
  | ar _ ha v ih =>
    refine ⟨by simpa using ih.dr, fun q hq => ?_, by simpa using ih.sp, by simpa using ih.fp, by simpa using ih.ov⟩
    rw [State.setAr_ar_ne _ _ _ _ (ne_of_mem_of_not_mem ha hq).symm, ih.ar q hq]
  | sp _ hi _ ih => exact ⟨ih.dr, ih.ar, by simp [hi], ih.fp, ih.ov⟩
  | fp _ hi _ ih => exact ⟨ih.dr, ih.ar, ih.sp, by simp [hi], ih.ov⟩
  | ov _ hi _ ih => exact ⟨ih.dr, ih.ar, ih.sp, ih.fp, by simp [hi]⟩
  | pc _ _ ih | mem _ _ _ ih | prng _ _ ih | buffers _ _ _ ih | host _ _ ih | handle _ _ _ ih =>
    exact ⟨ih.dr, ih.ar, ih.sp, ih.fp, ih.ov⟩

theorem Effect.keepsRegisters (h : Effect i s t) : KeepsRegisters i s t := by
  cases h with
  | goes h => exact h.keepsRegisters
  | stops h hs =>
    obtain ⟨_, _, _, rfl, _⟩ := hs.eq
    obtain ⟨hdr, har, hsp, hfp, hov⟩ := h.keepsRegisters
    exact ⟨hdr, har, hsp, hfp, hov⟩

end

/-- Settles O48, by what each instruction performs (`exec_performs`). -/
theorem registerWriters : Obligations.RegisterWriters := by
  unfold Obligations.RegisterWriters
  intro i s t e
  obtain ⟨hdr, har, hsp, hfp, hov⟩ := (exec_performs s i t e).keepsRegisters
  exact ⟨hdr, har, hsp, hfp, hov⟩

end Sys2Proof.Machine
end

section
/-! SUPPORT. What a step can do, said once: an end of the run, input from the host, or a turn of the run loop; and what
no step changes, the image, the run mode and the parameters (10_state.md R32, 20_memory.md R68). -/
namespace Sys2Proof.Machine

/-! ### the cases of a step -/

/-- `t` is `s` after the host's side has been attended to: breakpoints stay a set, the host's files stay, and the core
is as it was. -/
inductive Attends (s : State) : State → Prop
  | intro (bps : List Word) (ks : List Byte) (ls : List (List Byte)) (g : HostSide)
      (hb : s.breakpoints.Nodup → bps.Nodup) (hg : g.files = s.host.files) :
      Attends s { s with breakpoints := bps, keybuf := ks, strbuf := ls, host := g }

/-- A turn of the run loop after its instruction or delivery: piped mode makes its end-of-ops check
(60_exceptions.md R319). -/
def State.endTurn (s : State) : State :=
  match s.mode with
  | .direct => s
  | .piped => s.checkEnd

/-- What a step can do: end the run by a cancellation or with its session, attend to the host, run one instruction, or
deliver what a wait is for. -/
inductive StepCase (s : State) : State → Prop
  | cancel : StepCase s s.cancel
  | close {u} (h : Attends s u) : StepCase s u.closeSession
  | attend {u} (h : Attends s u) : StepCase s u
  | run {u v} (h : Attends s u) (hu : u.status = .running) (hv : runOne u = .next v) : StepCase s v.endTurn
  | key {u} (h : Attends s u) {pc0 x} (hu : u.status = .waitKey pc0 x) (b : Byte) :
      StepCase s (u.deliverKey pc0 x b).endTurn
  | line {u} (h : Attends s u) {pc0 a len} (hu : u.status = .waitStr pc0 a len) (l : List Byte) :
      StepCase s (u.deliverLine pc0 a len l).endTurn

/-- What no step changes: the image, the run mode and the parameters. -/
def State.fixed (s : State) : List Byte × List Byte × List Byte × RunMode × Params :=
  (s.ops, s.str, s.data, s.mode, s.params)

section
variable {i : Instr} {s t u : State}

theorem Attends.refl (s : State) : Attends s s := .intro s.breakpoints s.keybuf s.strbuf s.host id rfl

theorem Attends.trans (h : Attends s t) (h' : Attends t u) : Attends s u := by
  obtain ⟨_, _, _, _, hb, hg⟩ := h
  obtain ⟨_, _, _, _, hb', hg'⟩ := h'
  exact .intro _ _ _ _ (hb' ∘ hb) (hg'.trans hg)

theorem Requests.attends (h : Requests s t) : Attends s t := by
  obtain ⟨ks, ls, g, hg⟩ := h
  exact .intro s.breakpoints ks ls g id hg

theorem addBreakpoint_nodup {bps : List Word} (h : bps.Nodup) (pc : Word) : (addBreakpoint bps pc).Nodup := by
  unfold addBreakpoint
  split
  · exact h
  · exact List.nodup_cons.2 ⟨‹_›, h⟩

theorem removeBreakpoint_nodup {bps : List Word} (h : bps.Nodup) (pc : Word) : (removeBreakpoint bps pc).Nodup :=
  h.filter _

/-! ### what keeps the image, the mode and the parameters -/

theorem Writes.fixed (h : Writes i s t) : t.fixed = s.fixed := by
  induction h with
  | refl => rfl
  | dr _ _ _ ih | ar _ _ _ ih => simpa [State.fixed] using ih
  | pc _ _ ih | sp _ _ _ ih | fp _ _ _ ih | ov _ _ _ ih | mem _ _ _ ih | prng _ _ ih | buffers _ _ _ ih
  | host _ _ ih | handle _ _ _ ih => exact ih

theorem Stops.fixed (h : Stops s t) : t.fixed = s.fixed := by
  obtain ⟨_, _, _, rfl, _⟩ := h.eq
  rfl

theorem Effect.fixed (h : Effect i s t) : t.fixed = s.fixed := by
  cases h with
  | goes h => exact h.fixed
  | stops h hs => exact hs.fixed.trans h.fixed

theorem Attends.fixed (h : Attends s t) : t.fixed = s.fixed := by
  obtain ⟨_, _, _, _, _, _⟩ := h
  rfl

/-- A turn ends with the state it has, or at the end of OPS with the run halted. -/
theorem State.endTurn_cases (s : State) :
    (s.endTurn = s ∧ (s.mode = .piped → s.status = .running → s.pc.toNat ≠ s.ops.length)) ∨
      s.endTurn = s.halt .endOfOps := by
  cases hm : s.mode with
  | direct => exact .inl ⟨by simp [State.endTurn, hm], nofun⟩
  | piped =>
    have e : s.endTurn = s.checkEnd := by simp [State.endTurn, hm]
    rcases s.checkEnd_cases with ⟨-, -, e'⟩ | ⟨hn, e'⟩
    · exact .inr (e.trans e')
    · exact .inl ⟨e.trans e', fun _ hr hp => hn ⟨hr, hp⟩⟩

@[simp] theorem State.endTurn_fixed (s : State) : s.endTurn.fixed = s.fixed := by
  rcases s.endTurn_cases with ⟨e, -⟩ | e <;> rw [e]
  exact (Stops.halt _).fixed

/-- An instruction's turn stops at the end of OPS, traps in its fetch, or is an instruction. -/
theorem runOne_cases (h : runOne s = .next t) : Stops s t ∨ ∃ i, Effect i s t := by
  unfold runOne at h
  split at h
  · exact .inl (Host.Outcome.next.inj h ▸ .halt _)
  · split at h
    · exact .inr ⟨_, exec_performs s _ t h⟩
    · exact .inl (Host.Outcome.next.inj h ▸ .trap _)

theorem runOne_fixed (h : runOne s = .next t) : t.fixed = s.fixed := by
  rcases runOne_cases h with hs | ⟨_, he⟩
  · exact hs.fixed
  · exact he.fixed

theorem mode_of_fixed (h : t.fixed = s.fixed) : t.mode = s.mode :=
  congrArg (fun p => p.2.2.2.1) h

/-! ### the step has no other case -/

theorem State.endTurn_direct (h : s.mode = .direct) : s.endTurn = s := by simp [State.endTurn, h]

theorem State.endTurn_piped (h : s.mode = .piped) : s.endTurn = s.checkEnd := by simp [State.endTurn, h]

theorem portRun_case (hu : Attends s u) (hm : u.mode = .piped) (hr : u.status = .running)
    (e : portRun u = .next t) : StepCase s t := by
  unfold portRun at e
  split at e
  case h_1 v hv =>
    cases e
    rw [← State.endTurn_piped ((mode_of_fixed (runOne_fixed hv)).trans hm)]
    exact .run hu hr hv
  case h_2 => cases e
  case h_3 => cases e

theorem handleFrame_case (hu : Attends s u) (hm : u.mode = .piped) (f : HostFrame)
    (e : handleFrame f u = .next t) : StepCase s t := by
  cases f with
  | step =>
    simp only [handleFrame] at e
    split at e
    · split at e
      · cases e; exact .attend (hu.trans (u.emit_requests _).attends)
      · exact portRun_case hu hm (‹_ ∧ _›).2 e
    · cases e; exact .attend hu
  | stepIgnoring =>
    simp only [handleFrame] at e
    split at e
    · exact portRun_case hu hm (‹_ ∧ _›).2 e
    · cases e; exact .attend hu
  | setBreakpoint pc =>
    cases e; exact .attend (hu.trans (.intro _ u.keybuf u.strbuf u.host (addBreakpoint_nodup · pc) rfl))
  | clearBreakpoint pc =>
    cases e; exact .attend (hu.trans (.intro _ u.keybuf u.strbuf u.host (removeBreakpoint_nodup · pc) rfl))
  | requestDump => cases e; exact .attend (hu.trans (u.emit_requests _).attends)
  | key b =>
    simp only [handleFrame] at e
    split at e <;> cases e
    · rw [← State.endTurn_piped (by simpa [State.deliverKey] using hm)]
      exact .key hu ‹_› b
    · exact .attend (hu.trans (Requests.intro _ u.strbuf u.host rfl).attends)
  | string bs =>
    simp only [handleFrame] at e
    split at e <;> cases e
    · rw [← State.endTurn_piped (by simpa [State.deliverLine] using hm)]
      exact .line hu ‹_› bs
    · exact .attend (hu.trans (Requests.intro u.keybuf _ u.host rfl).attends)
  | requestMemory lo hi =>
    simp only [handleFrame] at e
    split at e <;> cases e
    · exact .attend (hu.trans (u.emitAll_requests _).attends)
    · exact .close hu

theorem portStep_case (hm : s.mode = .piped) (e : portStep s = .next t) : StepCase s t := by
  unfold portStep at e
  split at e
  case h_1 f rest _ => exact handleFrame_case (Requests.host s (g := { s.host with inbox := rest }) rfl).attends hm f e
  case h_2 => cases e; exact .close (.refl s)
  case h_3 =>
    split at e <;> cases e
    · exact .close (.refl s)
    · exact .attend (.refl s)

theorem directStep_case (hm : s.mode = .direct) (hs : s.status.ended = false) (e : directStep s = .next t) :
    StepCase s t := by
  unfold directStep at e
  split at e
  case h_1 pc0 x hw =>
    have hk : Attends s s.takeKey.2 := s.takeKey_requests.attends
    have hw' : s.takeKey.2.status = .waitKey pc0 x := by simpa using hw
    have hm' : s.takeKey.2.mode = .direct := by simpa using hm
    split at e <;> rename_i heq <;> rw [heq] at hk hw' hm' <;> cases e
    · rw [← State.endTurn_direct (s := State.deliverKey _ _ _ _) (by simpa [State.deliverKey] using hm')]
      exact .key hk hw' _
    · exact .attend hk
  case h_2 pc0 a len hw =>
    have hk : Attends s s.takeLine.2 := s.takeLine_requests.attends
    have hw' : s.takeLine.2.status = .waitStr pc0 a len := by simpa using hw
    have hm' : s.takeLine.2.mode = .direct := by simpa using hm
    split at e <;> rename_i heq <;> rw [heq] at hk hw' hm' <;> cases e
    · rw [← State.endTurn_direct (s := State.deliverLine _ _ _ _ _) (by simpa [State.deliverLine] using hm')]
      exact .line hk hw' _
    · exact .attend hk
  case h_3 hk hl =>
    rw [← State.endTurn_direct ((mode_of_fixed (runOne_fixed e)).trans hm)]
    refine .run (.refl s) ?_ e
    cases hst : s.status with
    | running => rfl
    | waitKey pc0 x => exact absurd hst (hk pc0 x)
    | waitStr pc0 a len => exact absurd hst (hl pc0 a len)
    | halted | crashed | cancelled => simp [hst, Status.ended] at hs

/-- A step does one of these things. -/
theorem step_cases (e : step s = .next t) : StepCase s t := by
  unfold step boundary at e
  split at e
  · split at e
    · cases e
    · split at e
      · cases e
      · exact portStep_case ‹_› e
  · split at e
    · cases e; exact .cancel
    · split at e
      · exact directStep_case ‹_› (by simpa using ‹¬ s.status.ended = true›) e
      · split at e
        · cases e; exact .cancel
        · exact portStep_case ‹_› e

theorem State.deliverKey_fixed (s : State) (pc0 : Word) (x : DataReg) (b : Byte) :
    (s.deliverKey pc0 x b).fixed = s.fixed := by
  simp [State.fixed, State.deliverKey]

theorem State.deliverLine_fixed (s : State) (pc0 a : Word) (len : Nat) (l : List Byte) :
    (s.deliverLine pc0 a len l).fixed = s.fixed := rfl

theorem StepCase.fixed (h : StepCase s t) : t.fixed = s.fixed := by
  cases h with
  | cancel => rfl
  | close h | attend h => exact h.fixed
  | run h _ hv => exact (State.endTurn_fixed _).trans ((runOne_fixed hv).trans h.fixed)
  | key h _ b => exact (State.endTurn_fixed _).trans ((State.deliverKey_fixed ..).trans h.fixed)
  | line h _ l => exact (State.endTurn_fixed _).trans ((State.deliverLine_fixed ..).trans h.fixed)

end

/-- Settles O54, by the cases of a step (`step_cases`). -/
theorem imageIsImmutable : Obligations.ImageIsImmutable := by
  unfold Obligations.ImageIsImmutable
  intro s t e
  simpa [State.fixed] using (step_cases e).fixed

end Sys2Proof.Machine
end

section
/-! SUPPORT. The invariant of a run: the part that every write keeps, and the part that a stop or the end of a turn sets
up again (10_state.md R31, 60_exceptions.md R318, R319). -/
namespace Sys2Proof.Machine

/-- Only files of the host are opened. -/
def State.HandlesFit (s : State) : Prop :=
  ∀ f : Byte, (s.handle f).opened = true → f.toNat < s.host.files.length

/-- The part of the invariant that does not speak of the run's status. -/
structure State.Stored (s : State) : Prop where
  mem : Memory.wf s.mem = true
  regions : s.RegionsFit
  breakpoints : s.breakpoints.Nodup
  handles : s.HandlesFit
  params : s.params.wellFormed = true

/-- The part of the invariant that holds in the middle of a turn too: a running core may stand at the end of OPS. -/
structure State.Steady (s : State) : Prop where
  idle : s.status = .running → s.proto = .idle
  agrees : s.status ≠ .running → s.PortAgrees
  waits : s.WaitHolds

section
variable {i : Instr} {s t : State}

/-- The invariant in these parts. -/
theorem State.inv_iff : s.Inv ↔ s.Stored ∧ s.PortAgrees ∧ s.WaitHolds :=
  ⟨fun ⟨hm, hr, hb, hp, hw, hh, hps⟩ => ⟨⟨hm, hr, hb, hh, hps⟩, hp, hw⟩,
    fun ⟨⟨hm, hr, hb, hh, hps⟩, hp, hw⟩ => ⟨hm, hr, hb, hp, hw, hh, hps⟩⟩

/-! ### the stored part -/

theorem State.HandlesFit.setHandle (h : s.HandlesFit) (f : Byte) {x : FileHandle}
    (hx : x.opened = true → f.toNat < s.host.files.length) : (s.setHandle f x).HandlesFit := by
  intro g hg
  by_cases e : g = f
  · subst e
    exact hx (by simpa using hg)
  · exact h g (by rwa [State.setHandle_handle_ne _ _ _ _ e] at hg)

theorem Writes.stored (h : Writes i s t) (hs : s.Stored) : t.Stored := by
  induction h with
  | refl => exact hs
  | mem _ a bs ih => exact ⟨Memory.writeBytes_wf _ a bs ih.mem, ih.regions, ih.breakpoints, ih.handles, ih.params⟩
  | host _ hg ih =>
    exact ⟨ih.mem, ih.regions, ih.breakpoints, fun f hf => hg ▸ ih.handles f hf, ih.params⟩
  | handle _ f hx ih =>
    refine ⟨ih.mem, ih.regions, ih.breakpoints, ih.handles.setHandle f fun ho => ?_, ih.params⟩
    exact (hx ho).elim (ih.handles f) id
  | @dr _ _ r _ v ih => cases r <;> exact ⟨ih.mem, ih.regions, ih.breakpoints, ih.handles, ih.params⟩
  | @ar _ _ a _ v ih => cases a <;> exact ⟨ih.mem, ih.regions, ih.breakpoints, ih.handles, ih.params⟩
  | pc _ _ ih | sp _ _ _ ih | fp _ _ _ ih | ov _ _ _ ih | prng _ _ ih | buffers _ _ _ ih =>
    exact ⟨ih.mem, ih.regions, ih.breakpoints, ih.handles, ih.params⟩

theorem Stops.stored (h : Stops s t) (hs : s.Stored) : t.Stored := by
  obtain ⟨_, _, _, rfl, hg⟩ := h.eq
  exact ⟨hs.mem, hs.regions, hs.breakpoints, fun f hf => hg ▸ hs.handles f hf, hs.params⟩

theorem Effect.stored (h : Effect i s t) (hs : s.Stored) : t.Stored := by
  cases h with
  | goes h => exact h.stored hs
  | stops h hst => exact hst.stored (h.stored hs)

theorem runOne_stored (h : runOne s = .next t) (hs : s.Stored) : t.Stored := by
  rcases runOne_cases h with hst | ⟨_, he⟩
  · exact hst.stored hs
  · exact he.stored hs

theorem State.Stored.endTurn (h : s.Stored) : s.endTurn.Stored := by
  rcases s.endTurn_cases with ⟨e, -⟩ | e <;> rw [e]
  · exact h
  · exact (Stops.halt _).stored h

theorem Attends.stored (h : Attends s t) (hs : s.Stored) : t.Stored := by
  obtain ⟨_, _, _, _, hb, hg⟩ := h
  exact ⟨hs.mem, hs.regions, hb hs.breakpoints, fun f hf => hg ▸ hs.handles f hf, hs.params⟩

/-- A delivered key goes to a data register. -/
theorem State.Stored.deliverKey (h : s.Stored) (pc0 : Word) (x : DataReg) (b : Byte) :
    (s.deliverKey pc0 x b).Stored := by
  cases x <;> exact ⟨h.mem, h.regions, h.breakpoints, h.handles, h.params⟩

/-- A delivered line goes to MEM and ACC. -/
theorem State.Stored.deliverLine (h : s.Stored) (pc0 a : Word) (len : Nat) (l : List Byte) :
    (s.deliverLine pc0 a len l).Stored :=
  ⟨Memory.writeBytes_wf _ _ _ h.mem, h.regions, h.breakpoints, h.handles, h.params⟩

/-! ### the status and the port -/

/-- No write changes the status or the port: an instruction does so by a stop alone. -/
theorem Writes.port (h : Writes i s t) : t.status = s.status ∧ t.proto = s.proto := by
  induction h with
  | refl => exact ⟨rfl, rfl⟩
  | dr _ _ _ ih | ar _ _ _ ih => simpa using ih
  | pc _ _ ih | sp _ _ _ ih | fp _ _ _ ih | ov _ _ _ ih | mem _ _ _ ih | prng _ _ ih | buffers _ _ _ ih
  | host _ _ ih | handle _ _ _ ih => exact ih

/-- In Running the port is idle in both modes. -/
theorem State.PortAgrees.idle (h : s.PortAgrees) (hs : s.status = .running) : s.proto = .idle := by
  unfold State.PortAgrees at h
  rw [hs] at h
  split at h
  · exact h
  · exact h.1

theorem State.steady_of_running (hs : s.status = .running) (hp : s.proto = .idle) : s.Steady :=
  ⟨fun _ => hp, fun hn => absurd hs hn, by simp [State.WaitHolds, hs]⟩

/-- A stop puts the port in step with the status it sets, and a wait it begins can be ended. -/
theorem Stops.agrees (h : Stops s t) (hp : s.proto = .idle) : t.PortAgrees ∧ t.WaitHolds := by
  cases h with
  | trap k => cases hm : s.mode <;> simp [State.PortAgrees, State.WaitHolds, State.takeTrap, hm, hp]
  | halt r => cases hm : s.mode <;> simp [State.PortAgrees, State.WaitHolds, State.halt, hm, hp]
  | key x => cases hm : s.mode <;> simp [State.PortAgrees, State.WaitHolds, State.waitForKey, hm, hp]
  | line a f ha hf => cases hm : s.mode <;> simp [State.PortAgrees, State.WaitHolds, State.waitForLine, hm, hp, ha, hf]

theorem Stops.status_ne_running (h : Stops s t) : t.status ≠ .running := by
  cases h <;> simp

theorem Stops.steady (h : Stops s t) (hp : s.proto = .idle) : t.Steady := by
  obtain ⟨hport, hwait⟩ := h.agrees hp
  exact ⟨fun hr => absurd hr h.status_ne_running, fun _ => hport, hwait⟩

theorem Effect.steady (h : Effect i s t) (hs : s.status = .running) (hp : s.proto = .idle) : t.Steady := by
  cases h with
  | goes h =>
    obtain ⟨hstatus, hproto⟩ := h.port
    exact State.steady_of_running (hstatus.trans hs) (hproto.trans hp)
  | stops h hst =>
    obtain ⟨-, hproto⟩ := h.port
    exact hst.steady (hproto.trans hp)

theorem runOne_steady (h : runOne s = .next t) (hs : s.status = .running) (hp : s.proto = .idle) : t.Steady := by
  rcases runOne_cases h with hst | ⟨_, he⟩
  · exact hst.steady hp
  · exact he.steady hs hp

theorem State.portAgrees_of_running (hs : s.status = .running) (hp : s.proto = .idle)
    (hpc : s.mode = .piped → s.pc.toNat ≠ s.ops.length) : s.PortAgrees := by
  unfold State.PortAgrees
  rw [hs]
  split
  · exact hp
  · exact ⟨hp, hpc ‹_›⟩

/-- The end of a turn is where a running core of piped mode leaves the end of OPS. -/
theorem State.Steady.endTurn (h : s.Steady) : s.endTurn.PortAgrees ∧ s.endTurn.WaitHolds := by
  by_cases hs : s.status = .running
  · rcases s.endTurn_cases with ⟨e, hpc⟩ | e <;> rw [e]
    · exact ⟨State.portAgrees_of_running hs (h.idle hs) fun hm => hpc hm hs, h.waits⟩
    · exact (Stops.halt _).agrees (h.idle hs)
  · have e : s.endTurn = s := by simp [State.endTurn, State.checkEnd, hs]; cases s.mode <;> rfl
    rw [e]
    exact ⟨h.agrees hs, h.waits⟩

/-- A wait that is over leaves a running core and an idle port: in direct mode it was idle all along. -/
theorem State.resume_steady (hp : s.mode = .direct → s.proto = .idle) (pc : Word) : (s.resume pc).Steady := by
  refine State.steady_of_running rfl ?_
  unfold State.resume
  dsimp only
  split
  · exact hp ‹_›
  · rfl

theorem State.PortAgrees.idle_of_direct (h : s.PortAgrees) (hm : s.mode = .direct) : s.proto = .idle := by
  simpa [State.PortAgrees, hm] using h

/-! ### the invariant -/

theorem Attends.inv (h : Attends s t) (hs : s.Inv) : t.Inv := by
  obtain ⟨hst, hp, hw⟩ := State.inv_iff.1 hs
  refine State.inv_iff.2 ⟨h.stored hst, ?_⟩
  obtain ⟨_, _, _, _, _, _⟩ := h
  exact ⟨hp, hw⟩

theorem State.Inv.cancel (hs : s.Inv) : s.cancel.Inv := by
  obtain ⟨⟨hm, hr, hb, hh, hps⟩, hp, -⟩ := State.inv_iff.1 hs
  refine State.inv_iff.2 ⟨⟨hm, hr, hb, hh, hps⟩, ?_, trivial⟩
  unfold State.PortAgrees
  split
  · exact hp.idle_of_direct ‹_›
  · trivial

/-- The end of a session cancels a run that had not ended and leaves one that had. -/
theorem State.Inv.closeSession (hs : s.Inv) : s.closeSession.Inv := by
  obtain ⟨hst, hp, hw⟩ := State.inv_iff.1 hs
  cases he : s.status.ended with
  | false =>
    obtain ⟨⟨hm, hr, hb, hh, hps⟩, hp', hw'⟩ := State.inv_iff.1 hs.cancel
    have e : s.closeSession = { s.cancel with host := { s.host with sessionClosed := true } } := by
      simp [State.closeSession, State.cancel, he]
    rw [e]
    exact State.inv_iff.2 ⟨⟨hm, hr, hb, hh, hps⟩, hp', hw'⟩
  | true =>
    have e : s.closeSession = { s with host := { s.host with sessionClosed := true } } := by
      simp [State.closeSession, he]
    rw [e]
    exact (Requests.host s (by rfl)).attends.inv hs

theorem State.inv_endTurn (h : s.Stored) (hs : s.Steady) : s.endTurn.Inv :=
  State.inv_iff.2 ⟨h.endTurn, hs.endTurn⟩

theorem StepCase.inv (h : StepCase s t) (hs : s.Inv) : t.Inv := by
  cases h with
  | cancel => exact hs.cancel
  | close h => exact (h.inv hs).closeSession
  | attend h => exact h.inv hs
  | run h hu hv =>
    obtain ⟨hst, hp, -⟩ := State.inv_iff.1 (h.inv hs)
    exact State.inv_endTurn (runOne_stored hv hst) (runOne_steady hv hu (hp.idle hu))
  | @key u h pc0 x hu b =>
    obtain ⟨hst, hp, -⟩ := State.inv_iff.1 (h.inv hs)
    exact State.inv_endTurn (hst.deliverKey pc0 x b) (State.resume_steady (by simpa using hp.idle_of_direct) _)
  | @line u h pc0 a len hu l =>
    obtain ⟨hst, hp, -⟩ := State.inv_iff.1 (h.inv hs)
    exact State.inv_endTurn (hst.deliverLine pc0 a len l) (State.resume_steady (by simpa using hp.idle_of_direct) _)

end

/-- Settles O52, by the cases of a step (`step_cases`). -/
theorem stepKeepsInvariant : Obligations.StepKeepsInvariant := by
  unfold Obligations.StepKeepsInvariant
  exact fun s t hs e => (step_cases e).inv hs

end Sys2Proof.Machine
end

section
/-! SUPPORT. Decoding and encoding are inverse to each other: with the default opcode map by the rows of the table, and
with any other through the row its opcode byte stands for (30_encoding.md R82 to R89, 00_scope.md R5). -/
namespace Sys2Proof

/-! ### the default opcode map -/

section
open Laws.EncodingShape

/-- The opcode, the length and the operand bytes of every encoding. -/
theorem encodingShape : ∀ i, Statement i :=
  @Instr.rec Statement addRR addRN addRA subRR subRN subRA incR incA decR decA andRR andRN orRR orRN xorRR xorRN notR
    cpyRR cpyRN cpyRA cpyAA cpyAW cpyARR cpyRRA swpRR swpAA memrW memrA memwW memwA memcAA ldATNN ldATRR lenTN lenTR
    cmpRR cmpRN cmpRA cmpAA jmpW jmpA jeW jeA jneW jneA jlW jlA jgW jgA overW overA noverW noverA callW callA ret
    pushR pushN pushA popR popA argRN argAN prtR prtN prtcR prtcN prtsS prtln prtdA mempA debug fopenN filerNW filerNA
    filewNW filewNA filewNR filewNN fskipNR fseekN fchkNW fchkNA ipollW ipollA rchrR rstrW rstrA nop halt randR seedR
    time

end

/-- What the decoder accepts: a row of the table, all of its bytes, and register bytes that name registers
(30_encoding.md R85). -/
theorem decode_eq_ok_iff (bs : List Byte) (i : Instr) (rest : List Byte) :
    decode bs = .ok (i, rest) ↔ ∃ f, opcodeRow (fun k => bs.getD k 0) = some (f, i) ∧ f.length ≤ bs.length ∧
      registersOk f.fields bs.tail = true ∧ bs.drop f.length = rest := by
  cases bs with
  | nil => simp [decode, Format.length]
  | cons op operands =>
    simp only [decode, List.tail_cons]
    cases opcodeRow fun k => (op :: operands).getD k 0 with
    | none => simp
    | some row =>
      obtain ⟨f, j⟩ := row
      dsimp only
      split_ifs with hshort hreg
      · simp [Nat.not_le_of_lt (show operands.length + 1 < f.length from hshort)]
      · simp [hreg, show f.length ≤ operands.length + 1 from Nat.le_of_not_lt hshort]
      · simp [hreg]

/-- The row read at an instruction's bytes is its own: a register code and a 16-bit value in bytes read back. -/
theorem opcodeRow_encode (i : Instr) (rest : List Byte) :
    (opcodeRow fun k => (encode i ++ rest).getD k 0).map Prod.snd = some i := by
  cases i with
  | ret | prtln | debug | nop | halt | time | pushN | prtN | prtcN | fopenN | fseekN | filewNN => rfl
  | _ =>
    conv_lhs => whnf
    simp [encode]

/-- Legal operand bytes stay legal with more bytes after them. -/
theorem operandsLegal_append {ks : List FieldKind} {bs : List Byte} (h : operandsLegal ks bs = true)
    (rest : List Byte) : operandsLegal ks (bs ++ rest) = true := by
  induction ks, bs using operandsLegal.induct <;> simp_all [operandsLegal]

theorem decode_encode (i : Instr) (rest : List Byte) : decode (encode i ++ rest) = .ok (i, rest) := by
  obtain ⟨f, op, operands, henc, hf, hlen, hlegal⟩ := encodingShape i
  obtain ⟨j, hrow⟩ := exists_opcodeRow_of_formatOf hf (fun k => (encode i ++ rest).getD k 0) (by simp [henc])
  have hread := opcodeRow_encode i rest
  rw [hrow] at hread
  obtain rfl : j = i := Option.some.inj hread
  have hlong : f.length ≤ (operands ++ rest).length + 1 := by rw [← hlen, henc]; simp
  refine (decode_eq_ok_iff _ _ _).2 ⟨f, hrow, by simp [hlen], ?_, by simp [← hlen]⟩
  rw [henc, List.cons_append, List.tail_cons, registersOk_of_length_le hlong]
  exact operandsLegal_append hlegal rest

/-- The converse of `opcodeRow_encode`: bytes with legal registers are the encoding of the instruction of their row. -/
theorem encode_of_opcodeRow {b : Nat → Byte} {f : Format} {i : Instr} (h : opcodeRow b = some (f, i))
    {rest : List Byte} (hreg : registersOk f.fields (((List.range f.length).map b).tail ++ rest) = true) :
    encode i = (List.range f.length).map b := by
  have hop : BitVec.ofNat 8 (b 0).toNat = b 0 := by simp
  unfold opcodeRow at h
  split at h <;> cases h
  all_goals
    rw [‹BitVec.toNat (b 0) = _›] at hop
    simp [Format.length, Format.fields, FieldKind.size, registersOk, List.range_succ] at hreg
    simp [encode, Format.length, Format.fields, FieldKind.size, List.range_succ, code_dregOf, code_aregOf, hreg, hop]

theorem take_eq_map_range {bs : List Byte} {n : Nat} (h : n ≤ bs.length) :
    bs.take n = (List.range n).map fun k => bs.getD k 0 := by
  refine List.ext_getElem (by simpa using h) fun k hk _ => ?_
  have : k < bs.length := (List.length_take_le' n bs).trans_lt' hk
  simp [this]

theorem eq_encode_of_decode {bs : List Byte} {i : Instr} {rest : List Byte} (h : decode bs = .ok (i, rest)) :
    bs = encode i ++ rest := by
  obtain ⟨f, hrow, hlen, hreg, rfl⟩ := (decode_eq_ok_iff _ _ _).1 h
  have htake := take_eq_map_range hlen
  have hpos : 0 < (bs.take f.length).length := by rw [List.length_take_of_le hlen, Format.length]; omega
  rw [encode_of_opcodeRow hrow (rest := bs.drop f.length), ← htake, List.take_append_drop]
  rwa [← htake, ← List.tail_append_of_ne_nil (List.ne_nil_of_length_pos hpos), List.take_append_drop]

/-! ### every other opcode map -/

theorem encodeWith_of_encode (m : OpcodeMap) {i : Instr} {op : Byte} {operands : List Byte}
    (h : encode i = op :: operands) : encodeWith m i = mappedOpcode m op :: operands := by
  rw [encodeWith, h]

theorem mem_tableOpcodes_of_formatOf {op : Byte} {f : Format} (h : formatOf op = some f) : op ∈ tableOpcodes := by
  by_contra hop
  simp [formatOf_of_not_mem hop] at h

theorem decodeWith_encodeWith {m : OpcodeMap} (hm : OpcodeMap.wellFormed m = true) (i : Instr) (rest : List Byte) :
    decodeWith m (encodeWith m i ++ rest) = .ok (i, rest) := by
  obtain ⟨f, op, operands, henc, hf, -, -⟩ := encodingShape i
  rw [encodeWith_of_encode m henc, List.cons_append, decodeWith_cons,
    tableOpcode_mappedOpcode hm (mem_tableOpcodes_of_formatOf hf), ← List.cons_append, ← henc, decode_encode]

theorem eq_encodeWith_of_decodeWith {m : OpcodeMap} (hm : OpcodeMap.wellFormed m = true) {bs : List Byte} {i : Instr}
    {rest : List Byte} (h : decodeWith m bs = .ok (i, rest)) : bs = encodeWith m i ++ rest := by
  cases bs with
  | nil => cases h
  | cons op bs =>
    have hop : op ∈ m.map Prod.fst := by
      by_contra hop
      simp [(decodeWith_eq_badOpcode_iff hm op bs).2 hop] at h
    obtain ⟨f, c, operands, henc, -, -, -⟩ := encodingShape i
    have hbs := eq_encode_of_decode ((decodeWith_cons m op bs).symm.trans h)
    rw [henc, List.cons_append, List.cons.injEq] at hbs
    obtain ⟨hc, rfl⟩ := hbs
    rw [encodeWith_of_encode m henc, ← hc, mappedOpcode_tableOpcode hm hop, List.cons_append]

theorem tableOpcode_default {op : Byte} (h : op ∈ tableOpcodes) : tableOpcode defaultOpcodeMap op = op := by
  have hn := ((OpcodeMap.wellFormed_iff _).1 defaultOpcodeMap_wellFormed).2
  rw [tableOpcode, lookup_of_mem hn (List.mem_map_of_mem (f := fun c => (c, c)) h), Option.getD_some]

/-- An unassigned byte reads as 0x00 through the map, and both are refused. -/
theorem decodeWith_default (bs : List Byte) : decodeWith defaultOpcodeMap bs = decode bs := by
  cases bs with
  | nil => rfl
  | cons op bs =>
    rw [decodeWith_cons]
    by_cases hop : op ∈ tableOpcodes
    · rw [tableOpcode_default hop]
    · have hmap : op ∉ defaultOpcodeMap.map Prod.fst := by simpa [defaultOpcodeMap, Function.comp_def] using hop
      rw [tableOpcode_of_not_mem hmap, decode_of_formatOf_none rfl, decode_of_formatOf_none (formatOf_of_not_mem hop)]

/-- The opcode bytes without a format, under the default map (30_encoding.md R87). -/
theorem formatOf_eq_none_iff_unassigned (op : Byte) : formatOf op = none ↔ op.toNat = 0 ∨ 0x5E ≤ op.toNat := by
  rw [formatOf_eq_none_iff, mem_tableOpcodes, Config.opcodeCount]
  omega

/-- Settles O1, by the row of an encoding (`opcodeRow_encode`) and its shape (`encodingShape`). -/
theorem decodeEncodeAgree : Obligations.DecodeEncodeAgree := by
  unfold Obligations.DecodeEncodeAgree
  exact ⟨decode_encode, fun _ hm => decodeWith_encodeWith hm, decodeWith_default⟩

/-- Settles O2, by the encoding of a row (`encode_of_opcodeRow`). -/
theorem decodedBytesAreTheEncoding : Obligations.DecodedBytesAreTheEncoding := by
  unfold Obligations.DecodedBytesAreTheEncoding
  exact ⟨fun _ _ _ => eq_encode_of_decode, fun _ hm _ _ _ => eq_encodeWith_of_decodeWith hm⟩

/-- Settles O3: each word is its instruction's encoding, so `decode_encode` reads it back. -/
theorem sampleWordsDecode : Obligations.SampleWordsDecode := by
  unfold Obligations.SampleWordsDecode
  exact ⟨decode_encode (.addRR .d0 .d1) [], decode_encode (.cpyRRA .d2 .d3 .a0) [],
    decode_encode (.ldATRR .a1 0 .d0 .d1) [], decode_encode (.callW 0x000B) [], decode_encode (.argAN .a1 2) [],
    decode_encode (.prtsS 0) [], decode_encode (.fchkNW 5 0x0020) [], decode_encode (.rstrW 0xFF01) []⟩

end Sys2Proof
end

section
/-! SUPPORT. A step at a boundary: what the end of OPS, the fetch and the decoder make of it, and which turns of the two
run loops come to it (30_encoding.md R85, 60_exceptions.md R319, 70_reset_and_hazards.md R356, R357). -/
namespace Sys2Proof.Machine

section
variable {s : State}

/-! ### the outcomes of a boundary -/

theorem runOne_of_end (h : s.pc.toNat = s.ops.length) : runOne s = .next (s.halt .endOfOps) := by
  rw [runOne, if_pos h]

theorem runOne_of_beyond (h : s.ops.length < s.pc.toNat) : runOne s = .next (s.takeTrap .pcOutOfRange) := by
  rw [runOne, if_neg h.ne', State.fetch, if_pos h]
  rfl

theorem runOne_of_decodeWith_error (hpc : s.pc.toNat < s.ops.length) {e : DecodeError}
    (h : decodeWith s.params.opcodeMap (s.ops.drop s.pc.toNat) = .error e) :
    runOne s = .next (s.takeTrap (trapOf e)) := by
  rw [runOne, if_neg hpc.ne, State.fetch, if_neg hpc.not_gt, h]
  rfl

/-- Where bytes decode, PC is inside OPS: at its end and beyond it there is no byte. -/
theorem pc_lt_of_decodeWith_ok {i : Instr} {rest : List Byte}
    (h : decodeWith s.params.opcodeMap (s.ops.drop s.pc.toNat) = .ok (i, rest)) : s.pc.toNat < s.ops.length := by
  by_contra hpc
  rw [List.drop_eq_nil_of_le (Nat.le_of_not_lt hpc)] at h
  cases h

theorem runOne_of_decodeWith_ok {i : Instr} {rest : List Byte}
    (h : decodeWith s.params.opcodeMap (s.ops.drop s.pc.toNat) = .ok (i, rest)) : runOne s = exec i s := by
  have hpc := pc_lt_of_decodeWith_ok h
  rw [runOne, if_neg hpc.ne, State.fetch, if_neg hpc.not_gt, h]

/-! ### the turns that come to a boundary -/

/-- In direct mode every turn of a running core with no cancellation pending comes to a boundary. -/
theorem step_direct (hm : s.mode = .direct) (hs : s.status = .running) (hc : s.host.cancelPending = false) :
    step s = runOne s := by
  simp [step, boundary, directStep, hs, hc, hm, Status.ended]

/-- The state once the frame at the front of the inbox is read. -/
def State.withInbox (s : State) (inbox : List Byte) : State :=
  { s with host := { s.host with inbox := inbox } }

/-- The host sends an `f` frame, or an `e` frame with no breakpoint at PC, and then `inbox`. -/
def State.StepCommanded (s : State) (inbox : List Byte) : Prop :=
  s.host.inbox = 0x66 :: inbox ∨ (s.host.inbox = 0x65 :: inbox ∧ s.pc ∉ s.breakpoints)

/-- In piped mode the turn of an accepted step command comes to a boundary, and makes the end-of-ops check. -/
theorem step_piped (hm : s.mode = .piped) (hs : s.status = .running) (hp : s.proto = .idle)
    (hc : s.host.cancelPending = false) (ho : s.host.sessionClosed = false) {inbox : List Byte}
    (hin : s.StepCommanded inbox) : step s = portRun (s.withInbox inbox) := by
  have hport : step s = portStep s := by simp [step, boundary, hs, hc, hm, ho, Status.ended]
  rw [hport]
  rcases hin with hin | ⟨hin, hbp⟩
  · simp [portStep, hin, parseFrame, handleFrame, hp, hs, State.withInbox]
  · simp [portStep, hin, parseFrame, handleFrame, hp, hs, hbp, State.withInbox]

/-! ### the ends of a run -/

theorem State.halt_direct (hm : s.mode = .direct) (r : HaltReason) : s.halt r = { s with status := .halted r } := by
  simp only [State.halt, hm]

theorem State.halt_piped (hm : s.mode = .piped) (hl : s.host.sentLeft = none) (r : HaltReason) :
    s.halt r = { s with
      status := .halted r, proto := .halted, host := { s.host with sent := s.host.sent ++ [.finished] } } := by
  simp only [State.halt, hm]
  exact State.emit_sent _ _ hl

theorem State.takeTrap_piped (hm : s.mode = .piped) (hl : s.host.sentLeft = none) (k : TrapKind) :
    s.takeTrap k = { s with
      status := .crashed k, proto := .crashed, host := { s.host with sent := s.host.sent ++ [.crashed] } } := by
  simp only [State.takeTrap, hm]
  exact State.emit_sent _ _ hl

/-! ### what an accepted step command answers -/

theorem portRun_of_next {t : State} (h : runOne s = .next t) : portRun s = .next t.checkEnd := by
  rw [portRun, h]

/-- The end-of-ops check has nothing to do where the run is over. -/
theorem portRun_of_stopped {t : State} (h : runOne s = .next t) (ht : t.status ≠ .running) :
    portRun s = .next t := by
  rw [portRun_of_next h, State.checkEnd, if_neg fun hr => ht hr.1]

theorem portRun_of_halt (hm : s.mode = .piped) (hl : s.host.sentLeft = none) {r : HaltReason}
    (h : runOne s = .next (s.halt r)) :
    portRun s = .next { s with
      status := .halted r, proto := .halted, host := { s.host with sent := s.host.sent ++ [.finished] } } := by
  rw [portRun_of_stopped h (by simp), State.halt_piped hm hl]

theorem portRun_of_takeTrap (hm : s.mode = .piped) (hl : s.host.sentLeft = none) {k : TrapKind}
    (h : runOne s = .next (s.takeTrap k)) :
    portRun s = .next { s with
      status := .crashed k, proto := .crashed, host := { s.host with sent := s.host.sent ++ [.crashed] } } := by
  rw [portRun_of_stopped h (by simp), State.takeTrap_piped hm hl]

end

/-- Settles O4: an unassigned byte has no format (`formatOf_eq_none_iff_unassigned`), and the trap of its fetch leaves
all but the status, the port and the host's side. -/
theorem unassignedOpcodesTrap : Obligations.UnassignedOpcodesTrap := by
  unfold Obligations.UnassignedOpcodesTrap
  have hdecode (op : Byte) (rest : List Byte) :
      decode (op :: rest) = .error .badOpcode ↔ (op.toNat = 0 ∨ 0x5E ≤ op.toNat) := by
    rw [decode_eq_badOpcode_iff, formatOf_eq_none_iff_unassigned]
  refine ⟨hdecode, fun s op rest hmap hops hop => ?_⟩
  have hpc : s.pc.toNat < s.ops.length := by
    by_contra hpc
    simp [List.drop_eq_nil_of_le (Nat.le_of_not_lt hpc)] at hops
  have hbad : decodeWith s.params.opcodeMap (s.ops.drop s.pc.toNat) = .error .badOpcode := by
    rw [hmap, hops, decodeWith_default, (hdecode op rest).2 hop]
  obtain ⟨p, g, e⟩ := s.takeTrap_eq .badOpcode
  exact ⟨_, runOne_of_decodeWith_error hpc hbad, s.takeTrap_status _, by rw [trapOf, e]⟩

/-- Settles O7, by `step_direct` and `runOne_of_decodeWith_ok`. -/
theorem stepRunsTheDecodedInstruction : Obligations.StepRunsTheDecodedInstruction := by
  unfold Obligations.StepRunsTheDecodedInstruction
  intro s i rest hm hs hc hdecode
  rw [step_direct hm hs hc, runOne_of_decodeWith_ok hdecode]

/-- Settles O8: the step command is accepted (`step_piped`), and the check after it is `State.checkEnd`. -/
theorem pipedStepRunsTheDecodedInstruction : Obligations.PipedStepRunsTheDecodedInstruction := by
  unfold Obligations.PipedStepRunsTheDecodedInstruction
  intro s t i rest inbox hm hs hp hc ho hin hdecode hexec
  have hrun : runOne (s.withInbox inbox) = .next t :=
    (runOne_of_decodeWith_ok (s := s.withInbox inbox) hdecode).trans hexec
  have hstep : step s = .next t.checkEnd := (step_piped hm hs hp hc ho hin).trans (portRun_of_next hrun)
  refine ⟨hstep, fun hr hpc htm hl => ?_⟩
  rw [hstep, State.checkEnd, if_pos ⟨hr, hpc⟩, State.halt_piped htm hl]

/-- Settles O9: the three outcomes of a boundary, reached by `step_direct` and by `step_piped`. -/
theorem boundaryOutcomes : Obligations.BoundaryOutcomes := by
  unfold Obligations.BoundaryOutcomes
  intro s hs hc
  dsimp only
  refine ⟨fun hm => ?_, fun hm hp ho hl r hin => ?_⟩
  · rw [step_direct hm hs hc]
    refine ⟨fun hpc => ?_, fun hpc => runOne_of_beyond hpc, fun e ⟨hpc, he⟩ => ?_⟩
    · rw [runOne_of_end hpc, State.halt_direct hm]
    · rw [runOne_of_decodeWith_error hpc he]
      cases e <;> rfl
  · rw [step_piped hm hs hp hc ho hin]
    have hm' : (s.withInbox r).mode = .piped := hm
    refine ⟨fun hpc => portRun_of_halt hm' hl (runOne_of_end hpc),
      fun hpc => portRun_of_takeTrap hm' hl (runOne_of_beyond hpc), fun e ⟨hpc, he⟩ => ?_⟩
    have htrap : runOne (s.withInbox r) = .next ((s.withInbox r).takeTrap (trapOf e)) :=
      runOne_of_decodeWith_error (s := s.withInbox r) hpc he
    rw [portRun_of_takeTrap hm' hl htrap]
    cases e <;> rfl

end Sys2Proof.Machine
end

section
/-! SUPPORT. The ALU (41_alu.md): the result writes in the closed forms of R128, for every width, and the byte of DATA an
address register points at as an operand (R113, R116). -/
namespace Sys2Proof.Machine

/-! ### results in ℤ as unsigned words -/

/-- Cutting a difference to `w` bits in ℤ is cutting it, after a lift by `2 ^ w`, in ℕ (41_alu.md R110). -/
theorem ofInt_natCast_sub {w u v : Nat} (h : v ≤ 2 ^ w + u) :
    BitVec.ofInt w ((u : Int) - v) = BitVec.ofNat w (2 ^ w + u - v) := by
  have hlift : ((2 ^ w + u - v : Nat) : Int) = (u - v : Int) + (2 ^ w : Nat) := by omega
  apply BitVec.eq_of_toNat_eq
  rw [← BitVec.ofInt_natCast, hlift, BitVec.toNat_ofInt, BitVec.toNat_ofInt, Int.add_emod_right]

theorem overflow8_add (u v : Nat) : overflow8 ((u : Int) + v) = decide (255 < u + v) := by
  rw [overflow8, ← Bool.decide_or, decide_eq_decide]
  omega

theorem overflow8_sub {u : Nat} (hu : u ≤ 255) (v : Nat) : overflow8 ((u : Int) - v) = decide (u < v) := by
  rw [overflow8, ← Bool.decide_or, decide_eq_decide]
  omega

theorem overflow16_succ (v : Word) : overflow16 ((v.toNat : Int) + 1) = decide (v.toNat = 65535) := by
  rw [overflow16, ← Bool.decide_or, decide_eq_decide]
  omega

theorem overflow16_pred (v : Word) : overflow16 ((v.toNat : Int) - 1) = decide (v.toNat = 0) := by
  rw [overflow16, ← Bool.decide_or, decide_eq_decide]
  omega

theorem complement_eq_ofNat_sub (v : Byte) : ~~~v = BitVec.ofNat 8 (255 - v.toNat) := by
  apply BitVec.eq_of_toNat_eq
  rw [BitVec.toNat_not, BitVec.toNat_ofNat]
  omega

/-! ### the ALU's writes, each with the step of PC -/

section
variable (s : State)

theorem State.advance_aluWrite8_add (f : Format) (u v : Nat) :
    (s.advance f).aluWrite8 ((u : Int) + v) = s.added u v f.length := by
  rw [State.aluWrite8, overflow8_add, ← Int.natCast_add, BitVec.ofInt_natCast]
  rfl

theorem State.advance_aluWrite8_sub (f : Format) (u : Byte) {v : Nat} (hv : v ≤ 255) :
    (s.advance f).aluWrite8 ((u.toNat : Int) - v) = s.subtracted u.toNat v f.length := by
  rw [State.aluWrite8, overflow8_sub (by omega), ofInt_natCast_sub (by omega)]
  rfl

theorem State.advance_aluWrite16 (f : Format) (x : AddrReg) (r : Int) :
    (s.advance f).aluWrite16 x r =
      { s.setAr x (BitVec.ofInt 16 r) with ov := overflow16 r, pc := s.pc + BitVec.ofNat 16 f.length } := by
  cases x <;> rfl

theorem State.advance_setAcc (f : Format) (v : Byte) : (s.advance f).setDr .acc v = s.accSet v f.length := rfl

end

/-! ### a byte of DATA as an operand -/

/-- An operand taken from DATA passes its range check exactly where DATA has a byte, and is that byte. -/
theorem require_dataByte {s : State} {a : Nat} {v : Byte} (h : s.data[a]? = some v) (k : TrapKind)
    (use : Byte → StepResult) : require (rangeOk a 1 s.data.length) k s (use (byteAt s.data a)) = use v := by
  obtain ⟨ha, hv⟩ := List.getElem?_eq_some_iff.1 h
  rw [(rangeOk_iff a 1 _).2 ⟨ha, ha⟩, require_true, byteAt, List.getD_eq_getElem _ _ ha, hv]

theorem exec_addRA {s : State} {a : AddrReg} {v : Byte} (h : s.data[(s.ar a).toNat]? = some v) (x : DataReg) :
    exec (.addRA x a) s = .next (s.added (s.dr x).toNat v.toNat 3) :=
  calc
    exec (.addRA x a) s = .next ((s.advance .ra).aluWrite8 ((s.dr x).toNat + v.toNat)) :=
      require_dataByte h .dataOutOfRange fun b => .next ((s.advance .ra).aluWrite8 ((s.dr x).toNat + b.toNat))
    _ = .next (s.added (s.dr x).toNat v.toNat 3) := congrArg _ (s.advance_aluWrite8_add .ra _ _)

theorem exec_subRA {s : State} {a : AddrReg} {v : Byte} (h : s.data[(s.ar a).toNat]? = some v) (x : DataReg) :
    exec (.subRA x a) s = .next (s.subtracted (s.dr x).toNat v.toNat 3) :=
  calc
    exec (.subRA x a) s = .next ((s.advance .ra).aluWrite8 (((s.dr x).toNat : Int) - v.toNat)) :=
      require_dataByte h .dataOutOfRange fun b =>
        .next ((s.advance .ra).aluWrite8 (((s.dr x).toNat : Int) - b.toNat))
    _ = .next (s.subtracted (s.dr x).toNat v.toNat 3) := congrArg _ (s.advance_aluWrite8_sub .ra _ (by omega))

/-- Settles O10: every shape ends in one of the two writes, the `r a` shapes after their check. -/
theorem eightBitArithmetic : Obligations.EightBitArithmetic := by
  unfold Obligations.EightBitArithmetic
  intro s x y n a
  refine ⟨?addRR, ?addRN, ?subRR, ?subRN, ?incR, ?decR, fun v h => ⟨exec_addRA h x, exec_subRA h x⟩⟩
  case addRR => exact congrArg _ (s.advance_aluWrite8_add .rr _ _)
  case addRN => exact congrArg _ (s.advance_aluWrite8_add .rn _ _)
  case subRR => exact congrArg _ (s.advance_aluWrite8_sub .rr _ (by omega))
  case subRN => exact congrArg _ (s.advance_aluWrite8_sub .rn _ (by omega))
  case incR => exact congrArg _ (s.advance_aluWrite8_add .r _ 1)
  case decR => exact congrArg _ (s.advance_aluWrite8_sub .r _ (v := 1) (by omega))

/-- Settles O11: the 16-bit write with the closed forms of its result and of its flag. -/
theorem addressRegisterIncDec : Obligations.AddressRegisterIncDec := by
  unfold Obligations.AddressRegisterIncDec
  intro s x
  have hsucc : BitVec.ofInt 16 (((s.ar x).toNat : Int) + 1) = BitVec.ofNat 16 ((s.ar x).toNat + 1) :=
    BitVec.ofInt_natCast 16 _
  have hpred : BitVec.ofInt 16 (((s.ar x).toNat : Int) - 1) = BitVec.ofNat 16 (65536 + (s.ar x).toNat - 1) :=
    ofInt_natCast_sub (w := 16) (v := 1) (by omega)
  rw [← hsucc, ← hpred, ← overflow16_succ, ← overflow16_pred]
  exact ⟨congrArg _ (s.advance_aluWrite16 .a x _), congrArg _ (s.advance_aluWrite16 .a x _)⟩

/-- Settles O12: every shape puts its byte in ACC (`State.advance_setAcc`), and the complement is `255 - v`. -/
theorem bitwiseResults : Obligations.BitwiseResults := by
  unfold Obligations.BitwiseResults
  intro s x y n
  have hset (f : Format) (v : Byte) :
      (.next ((s.advance f).setDr .acc v) : StepResult) = .next (s.accSet v f.length) :=
    congrArg _ (s.advance_setAcc f v)
  rw [← complement_eq_ofNat_sub]
  exact ⟨hset .rr _, hset .rn _, hset .rr _, hset .rn _, hset .rr _, hset .rn _, hset .r _⟩

end Sys2Proof.Machine
end

section
/-! SUPPORT. Data movement (42_data_movement.md): what a copy, a swap and a write of MEM leave unchanged, the checks of
the bytes they take, and the packed table of LD and LEN in the terms of 20_memory.md R54. -/
namespace Sys2Proof.Machine

/-! ### register and memory frames -/

section
variable {s t : State} {n : Nat}

theorem State.onlyData_advance (s : State) (f : Format) : s.OnlyData (s.advance f) f.length := rfl

theorem State.OnlyData.setDr (h : s.OnlyData t n) (r : DataReg) (v : Byte) : s.OnlyData (t.setDr r v) n := by
  rw [State.OnlyData] at h ⊢
  rw [h]
  cases r <;> rfl

theorem State.onlyAddr_advance (s : State) (f : Format) : s.OnlyAddr (s.advance f) f.length := rfl

theorem State.OnlyAddr.setAr (h : s.OnlyAddr t n) (r : AddrReg) (v : Word) : s.OnlyAddr (t.setAr r v) n := by
  rw [State.OnlyAddr] at h ⊢
  rw [h]
  cases r <;> rfl

theorem State.onlyMem_advance (s : State) (f : Format) (m : Memory) :
    s.OnlyMem { s.advance f with mem := m } f.length := rfl

end

theorem State.advance_setAr (s : State) (f : Format) (x : AddrReg) (v : Word) :
    (s.advance f).setAr x v = { s.setAr x v with pc := s.pc + BitVec.ofNat 16 f.length } := by
  cases x <;> rfl

theorem hiByte_eq_ofNat (v : Word) : hiByte v = BitVec.ofNat 8 (v.toNat / 256) := by
  rw [← hiByte_toNat, BitVec.ofNat_toNat, BitVec.setWidth_eq]

theorem loByte_eq_ofNat (v : Word) : loByte v = BitVec.ofNat 8 (v.toNat % 256) := by
  rw [← loByte_toNat, BitVec.ofNat_toNat, BitVec.setWidth_eq]

/-! ### copies and swaps -/

section
variable (s : State)

/-- A copy to a data register: the state it leaves, by register. -/
theorem State.advance_setDr_spec (f : Format) (x : DataReg) (v : Byte) :
    ∃ t, (.next ((s.advance f).setDr x v) : StepResult) = .next t ∧ s.OnlyData t f.length ∧
      ∀ q, t.dr q = if q = x then v else s.dr q :=
  ⟨_, rfl, (s.onlyData_advance f).setDr x v, fun q => by rw [State.setDr_dr, State.advance_dr]⟩

/-- Two copies to data registers, of which the later wins where they go to one register. -/
theorem State.advance_setDr_setDr_spec (f : Format) (x y : DataReg) (v w : Byte) :
    ∃ t, (.next (((s.advance f).setDr x v).setDr y w) : StepResult) = .next t ∧ s.OnlyData t f.length ∧
      ∀ q, t.dr q = if q = y then w else if q = x then v else s.dr q :=
  ⟨_, rfl, ((s.onlyData_advance f).setDr x v).setDr y w, fun q => by
    rw [State.setDr_dr, State.setDr_dr, State.advance_dr]⟩

theorem State.advance_setAr_spec (f : Format) (x : AddrReg) (v : Word) :
    ∃ t, (.next ((s.advance f).setAr x v) : StepResult) = .next t ∧ s.OnlyAddr t f.length ∧
      ∀ q, t.ar q = if q = x then v else s.ar q :=
  ⟨_, rfl, (s.onlyAddr_advance f).setAr x v, fun q => by rw [State.setAr_ar, State.advance_ar]⟩

theorem State.advance_setAr_setAr_spec (f : Format) (x y : AddrReg) (v w : Word) :
    ∃ t, (.next (((s.advance f).setAr x v).setAr y w) : StepResult) = .next t ∧ s.OnlyAddr t f.length ∧
      ∀ q, t.ar q = if q = y then w else if q = x then v else s.ar q :=
  ⟨_, rfl, ((s.onlyAddr_advance f).setAr x v).setAr y w, fun q => by
    rw [State.setAr_ar, State.setAr_ar, State.advance_ar]⟩

end

/-- In a swap the order of the two writes does not matter: where both go to one register they write the same. -/
theorem ite_swap {α β : Type} [DecidableEq α] (g : α → β) (x y q : α) (z : β) :
    (if q = y then g x else if q = x then g y else z) = if q = x then g y else if q = y then g x else z := by
  by_cases hx : q = x
  · subst hx
    by_cases hy : q = y
    · simp [← hy]
    · simp [hy]
  · simp [hx]

/-- Settles O13: one write or two, after the range check for `r a`; of the two writes of `r r a` the low byte's is the
later. -/
theorem dataRegisterCopies : Obligations.DataRegisterCopies := by
  unfold Obligations.DataRegisterCopies
  intro s x y n a
  refine ⟨?cpyRR, ?cpyRN, fun v hv => ?cpyRA, ?cpyRRA, ?swpRR⟩
  case cpyRR => exact s.advance_setDr_spec .rr x (s.dr y)
  case cpyRN => exact s.advance_setDr_spec .rn x n
  case cpyRA =>
    have hexec : exec (.cpyRA x a) s = .next ((s.advance .ra).setDr x v) :=
      require_dataByte hv .dataOutOfRange fun b => .next ((s.advance .ra).setDr x b)
    rw [hexec]
    exact s.advance_setDr_spec .ra x v
  case cpyRRA =>
    rw [← loByte_eq_ofNat, ← hiByte_eq_ofNat]
    exact s.advance_setDr_setDr_spec .rra x y _ _
  case swpRR =>
    obtain ⟨t, hexec, honly, hdr⟩ := s.advance_setDr_setDr_spec .rr x y (s.dr y) (s.dr x)
    exact ⟨t, hexec, honly, fun q => (hdr q).trans (ite_swap s.dr x y q _)⟩

/-- Settles O14: one write or two; the register that takes a pair of bytes takes them joined (`be16_toNat`). -/
theorem addressRegisterCopies : Obligations.AddressRegisterCopies := by
  unfold Obligations.AddressRegisterCopies
  intro s x y w h l
  refine ⟨?cpyAA, ?cpyAW, ?cpyARR, ?swpAA⟩
  case cpyAA => exact s.advance_setAr_spec .aa x (s.ar y)
  case cpyAW => exact s.advance_setAr_spec .aw x w
  case cpyARR =>
    obtain ⟨t, hexec, honly, har⟩ := s.advance_setAr_spec .arr x (be16 (s.dr h) (s.dr l))
    refine ⟨t, hexec, honly, ?_, fun q hq => ?_⟩
    · rw [har, if_pos rfl, be16_toNat]
    · rw [har, if_neg hq]
  case swpAA =>
    obtain ⟨t, hexec, honly, har⟩ := s.advance_setAr_setAr_spec .aa x y (s.ar y) (s.ar x)
    exact ⟨t, hexec, honly, fun q => (har q).trans (ite_swap s.ar x y q _)⟩

/-! ### bytes of MEM -/

/-- The one address of 16 bits that MEM does not have is 0xFFFF (20_memory.md R51). -/
theorem lt_memSize_of_ne {a : Addr} (h : a ≠ 0xFFFF) : a.toNat < Config.memSize := by
  have hne : a.toNat ≠ 65535 := fun e => h (BitVec.eq_of_toNat_eq e)
  rw [Config.memSize]
  omega

theorem require_rangeOk {a n size : Nat} (ha : a < size) (hn : a + n ≤ size) (s : State) (k : TrapKind)
    (rest : StepResult) : require (rangeOk a n size) k s rest = rest := by
  rw [(rangeOk_iff a n size).2 ⟨ha, hn⟩, require_true]

theorem require_memByte {a : Addr} (h : a ≠ 0xFFFF) (s : State) (k : TrapKind) (rest : StepResult) :
    require (rangeOk a.toNat 1 Config.memSize) k s rest = rest :=
  require_rangeOk (lt_memSize_of_ne h) (lt_memSize_of_ne h) s k rest

/-- Settles O15: the check of the address holds, and the byte goes to ACC. -/
theorem memoryByteReads : Obligations.MemoryByteReads := by
  unfold Obligations.MemoryByteReads
  intro s w x
  exact ⟨fun hw => require_memByte hw s .memOutOfRange _, fun hx => require_memByte hx s .memOutOfRange _⟩

/-- A byte written to MEM: the state it leaves, by address. -/
theorem State.require_write_spec (s : State) (f : Format) {a : Addr} (h : a ≠ 0xFFFF) (v : Byte) :
    ∃ t, require (rangeOk a.toNat 1 Config.memSize) .memOutOfRange s
        (.next { s.advance f with mem := Memory.write s.mem a.toNat v }) = .next t ∧
      s.OnlyMem t f.length ∧ ∀ b, t.byte b = if b = a.toNat then v else s.byte b := by
  refine ⟨_, require_memByte h s .memOutOfRange _, s.onlyMem_advance f _, fun b => ?_⟩
  simp only [State.byte, Memory.read_write, lt_memSize_of_ne h, and_true]

/-- Settles O16, by `State.require_write_spec` for the operand's address. -/
theorem memoryByteWrites : Obligations.MemoryByteWrites := by
  unfold Obligations.MemoryByteWrites
  intro s w x
  exact ⟨fun hw => s.require_write_spec .w hw s.acc, fun hx => s.require_write_spec .a hx s.acc⟩

/-! ### blocks of bytes -/

theorem bytesAt_length {region : List Byte} {a n : Nat} (h : a + n ≤ region.length) :
    (bytesAt region a n).length = n := by
  rw [bytesAt, List.length_take, List.length_drop]
  omega

theorem bytesAt_getD {region : List Byte} {n k : Nat} (a : Nat) (h : k < n) :
    (bytesAt region a n).getD k 0 = region.getD (a + k) 0 := by
  rw [bytesAt, List.getD_eq_getElem?_getD, List.getElem?_take_of_lt h, List.getElem?_drop,
    List.getD_eq_getElem?_getD]

/-- Settles O17: both checks hold, and a byte of MEM in the block reads as its byte of DATA
(`Memory.read_writeBytes`, `bytesAt_getD`). -/
theorem memcCopiesDataToMemory : Obligations.MemcCopiesDataToMemory := by
  unfold Obligations.MemcCopiesDataToMemory
  intro s x y hx hxn hy hyn
  have hexec : exec (.memcAA x y) s = .next { s.advance .aa with
      mem := s.mem.writeBytes (s.ar y).toNat (bytesAt s.data (s.ar x).toNat s.acc.toNat) } :=
    (require_rangeOk hx hxn s .dataOutOfRange _).trans (require_rangeOk hy hyn s .memOutOfRange _)
  refine ⟨_, hexec, s.onlyMem_advance .aa _, fun b => ?_⟩
  have hlen := bytesAt_length hxn
  rw [State.byte, Memory.read_writeBytes _ _ _ (by rw [hlen]; exact hyn), hlen]
  split
  · exact bytesAt_getD _ (by omega)
  · rfl

/-! ### the packed table -/

/-- The recursion of `rowStart` as the sum that LD takes: row `k` begins after the `k` rows before it. -/
theorem rowStart_eq_sum (data : List Byte) (id k : Nat) :
    rowStart data id k = id + 1 + outerCount data id + ((List.range k).map (innerLen data id)).sum := by
  induction k with
  | zero => rfl
  | succ k ih => rw [rowStart, ih, List.range_succ, List.map_append, List.sum_append, List.map_singleton,
      List.sum_singleton, Nat.add_assoc]

section
variable {data : List Byte} {id : Nat}

theorem byteAt_toNat_eq_outerCount (data : List Byte) (id : Nat) : (byteAt data id).toNat = outerCount data id := rfl

theorem byteAt_toNat_eq_innerLen (data : List Byte) (id k : Nat) :
    (byteAt data (id + 1 + k)).toNat = innerLen data id k := rfl

/-- LD's answer for outer index 0, the item's header (42_data_movement.md R154). -/
theorem ldOffset_zero (h : id < data.length) (i : Nat) :
    ldOffset data id 0 i =
      if i = 0 then .ok id
      else if outerCount data id < i then .error .badLdIndex
      else if data.length ≤ id + i then .error .dataOutOfRange
      else .ok (id + i) := by
  simp [ldOffset, h, byteAt_toNat_eq_outerCount]

/-- LD's answer for the outer index of row `k` (42_data_movement.md R154). -/
theorem ldOffset_succ (h : id < data.length) (k i : Nat) :
    ldOffset data id (k + 1) i =
      if outerCount data id < k + 1 then .error .badLdIndex
      else if data.length ≤ id + outerCount data id then .error .dataOutOfRange
      else if innerLen data id k ≤ i then .error .badLdIndex
      else if data.length ≤ rowStart data id k + i then .error .dataOutOfRange
      else .ok (rowStart data id k + i) := by
  have hrow : id + (k + 1) = id + 1 + k := by omega
  rw [rowStart_eq_sum]
  simp [ldOffset, h, hrow, byteAt_toNat_eq_outerCount data id, byteAt_toNat_eq_innerLen]

theorem ldOffset_of_le (h : data.length ≤ id) (o i : Nat) : ldOffset data id o i = .error .dataOutOfRange := by
  simp [ldOffset, h]

/-- LD answers what its rule says, and nothing else. -/
theorem ldOffset_eq_ok_iff (o i a : Nat) : ldOffset data id o i = .ok a ↔ LdAnswers data id o i a := by
  unfold LdAnswers
  by_cases h : id < data.length
  · cases o with
    | zero =>
      rw [ldOffset_zero h]
      split_ifs <;> simp <;> omega
    | succ k =>
      rw [ldOffset_succ h]
      split_ifs <;> simp <;> omega
  · simp [ldOffset_of_le (Nat.le_of_not_lt h), h]

theorem ldOffset_eq_badLdIndex_iff (o i : Nat) :
    ldOffset data id o i = .error .badLdIndex ↔ LdIndexBad data id o i := by
  unfold LdIndexBad
  by_cases h : id < data.length
  · cases o with
    | zero =>
      rw [ldOffset_zero h]
      split_ifs <;> simp <;> omega
    | succ k =>
      rw [ldOffset_succ h]
      split_ifs <;> simp <;> omega
  · simp [ldOffset_of_le (Nat.le_of_not_lt h), h]

theorem ldOffset_error (o i : Nat) {k : TrapKind} (e : ldOffset data id o i = .error k) :
    k = .badLdIndex ∨ k = .dataOutOfRange := by
  unfold ldOffset at e
  dsimp only at e
  split_ifs at e <;> cases e <;> simp

/-- Where no row of LD's table applies, its answer is the trap of the ranges. -/
theorem ldOffset_of_neither {o i : Nat} (hok : ¬ ∃ a, LdAnswers data id o i a) (hbad : ¬ LdIndexBad data id o i) :
    ldOffset data id o i = .error .dataOutOfRange := by
  cases e : ldOffset data id o i with
  | ok a => exact absurd ⟨a, (ldOffset_eq_ok_iff o i a).1 e⟩ hok
  | error k =>
    rcases ldOffset_error o i e with rfl | rfl
    · exact absurd ((ldOffset_eq_badLdIndex_iff o i).1 e) hbad
    · rfl

/-- LEN's answer for the item itself and for row `k`, where the item's header is in DATA (42_data_movement.md R157). -/
theorem lenValue_zero (h : id < data.length) : lenValue data id 0 = .ok (byteAt data id) := by
  simp [lenValue, h]

theorem lenValue_succ (h : id < data.length) (k : Nat) :
    lenValue data id (k + 1) =
      if outerCount data id < k + 1 then .error .badLdIndex
      else if data.length ≤ id + (k + 1) then .error .dataOutOfRange
      else .ok (byteAt data (id + 1 + k)) := by
  have hrow : id + (k + 1) = id + 1 + k := by omega
  simp [lenValue, h, hrow, byteAt_toNat_eq_outerCount]

theorem lenValue_of_le (h : data.length ≤ id) (o : Nat) : lenValue data id o = .error .dataOutOfRange := by
  simp [lenValue, h]

theorem lenValue_eq_ok_iff (o : Nat) (v : Byte) : lenValue data id o = .ok v ↔ LenAnswers data id o v.toNat := by
  unfold LenAnswers
  by_cases h : id < data.length
  · cases o with
    | zero =>
      rw [lenValue_zero h, ← byteAt_toNat_eq_outerCount]
      simp [h, ← BitVec.toNat_inj, eq_comm]
    | succ k =>
      rw [lenValue_succ h, Nat.add_sub_cancel, ← byteAt_toNat_eq_innerLen]
      split_ifs <;> simp [← BitVec.toNat_inj] <;> omega
  · simp [lenValue_of_le (Nat.le_of_not_lt h), h]

theorem lenValue_eq_badLdIndex_iff (o : Nat) :
    lenValue data id o = .error .badLdIndex ↔ id < data.length ∧ outerCount data id < o := by
  by_cases h : id < data.length
  · cases o with
    | zero => simp [lenValue_zero h]
    | succ k =>
      rw [lenValue_succ h]
      split_ifs <;> simp <;> omega
  · simp [lenValue_of_le (Nat.le_of_not_lt h), h]

theorem lenValue_error (o : Nat) {k : TrapKind} (e : lenValue data id o = .error k) :
    k = .badLdIndex ∨ k = .dataOutOfRange := by
  unfold lenValue at e
  dsimp only at e
  split_ifs at e <;> cases e <;> simp

theorem lenValue_of_neither {o : Nat} (hok : ¬ ∃ v, LenAnswers data id o v)
    (hbad : ¬ (id < data.length ∧ outerCount data id < o)) : lenValue data id o = .error .dataOutOfRange := by
  cases e : lenValue data id o with
  | ok v => exact absurd ⟨v.toNat, (lenValue_eq_ok_iff o v).1 e⟩ hok
  | error k =>
    rcases lenValue_error o e with rfl | rfl
    · exact absurd ((lenValue_eq_badLdIndex_iff o).1 e) hbad
    · rfl

/-- A length that LEN answers is a byte of DATA. -/
theorem lenAnswers_lt {o v : Nat} (h : LenAnswers data id o v) : v < 256 := by
  obtain ⟨-, ⟨-, rfl⟩ | ⟨-, -, -, rfl⟩⟩ := h
  · exact BitVec.isLt _
  · exact BitVec.isLt _

theorem lenValue_of_lenAnswers {o v : Nat} (h : LenAnswers data id o v) :
    lenValue data id o = .ok (BitVec.ofNat 8 v) := by
  rwa [lenValue_eq_ok_iff, BitVec.toNat_ofNat, Nat.mod_eq_of_lt (lenAnswers_lt h)]

end

theorem loadOffset_ok (x : AddrReg) (f : Format) {r : Except TrapKind Nat} {a : Nat} (e : r = .ok a) (s : State) :
    loadOffset x f r s = .next { s.setAr x (BitVec.ofNat 16 a) with pc := s.pc + BitVec.ofNat 16 f.length } := by
  rw [e, loadOffset, State.advance_setAr]

theorem loadOffset_error (x : AddrReg) (f : Format) {r : Except TrapKind Nat} {k : TrapKind} (e : r = .error k)
    (s : State) : loadOffset x f r s = .next (s.takeTrap k) := by
  rw [e, loadOffset, raise_eq]

theorem loadLength_ok (f : Format) {r : Except TrapKind Byte} {v : Byte} (e : r = .ok v) (s : State) :
    loadLength f r s = .next (s.accSet v f.length) := by
  rw [e, loadLength, State.advance_setAcc]

theorem loadLength_error (f : Format) {r : Except TrapKind Byte} {k : TrapKind} (e : r = .error k) (s : State) :
    loadLength f r s = .next (s.takeTrap k) := by
  rw [e, loadLength, raise_eq]

/-- The end of an LD of format `f`, in each of the three cases of its table. -/
theorem loadOffset_ldOffset_spec (s : State) (x : AddrReg) (f : Format) (id o i : Nat) :
    (∀ a, LdAnswers s.data id o i a → loadOffset x f (ldOffset s.data id o i) s =
      .next { s.setAr x (BitVec.ofNat 16 a) with pc := s.pc + BitVec.ofNat 16 f.length }) ∧
    (LdIndexBad s.data id o i → loadOffset x f (ldOffset s.data id o i) s = .next (s.takeTrap .badLdIndex)) ∧
    ((¬ ∃ a, LdAnswers s.data id o i a) → ¬ LdIndexBad s.data id o i →
      loadOffset x f (ldOffset s.data id o i) s = .next (s.takeTrap .dataOutOfRange)) :=
  ⟨fun a h => loadOffset_ok x f ((ldOffset_eq_ok_iff o i a).2 h) s,
    fun h => loadOffset_error x f ((ldOffset_eq_badLdIndex_iff o i).2 h) s,
    fun hok hbad => loadOffset_error x f (ldOffset_of_neither hok hbad) s⟩

/-- The end of a LEN of format `f`, in each of the three cases of its rule. -/
theorem loadLength_lenValue_spec (s : State) (f : Format) (id o : Nat) :
    (∀ v, LenAnswers s.data id o v →
      loadLength f (lenValue s.data id o) s = .next (s.accSet (BitVec.ofNat 8 v) f.length)) ∧
    (id < s.data.length → outerCount s.data id < o →
      loadLength f (lenValue s.data id o) s = .next (s.takeTrap .badLdIndex)) ∧
    ((¬ ∃ v, LenAnswers s.data id o v) → ¬ (id < s.data.length ∧ outerCount s.data id < o) →
      loadLength f (lenValue s.data id o) s = .next (s.takeTrap .dataOutOfRange)) :=
  ⟨fun _ h => loadLength_ok f (lenValue_of_lenAnswers h) s,
    fun h ho => loadLength_error f ((lenValue_eq_badLdIndex_iff o).2 ⟨h, ho⟩) s,
    fun hok hbad => loadLength_error f (lenValue_of_neither hok hbad) s⟩

/-- Settles O18, by `loadOffset_ldOffset_spec` for the indexes of either shape. -/
theorem ldComputesPackedOffsets : Obligations.LdComputesPackedOffsets := by
  unfold Obligations.LdComputesPackedOffsets
  intro s x id z u zr ur
  obtain ⟨hok, hbad, hrange⟩ := loadOffset_ldOffset_spec s x .atnn id.toNat z.toNat u.toNat
  exact ⟨hok, hbad, hrange, loadOffset_ldOffset_spec s x .atrr id.toNat (s.dr zr).toNat (s.dr ur).toNat⟩

/-- Settles O19, by `loadLength_lenValue_spec` for the index of either shape. -/
theorem lenReadsPackedLengths : Obligations.LenReadsPackedLengths := by
  unfold Obligations.LenReadsPackedLengths
  intro s id z zr
  obtain ⟨hok, hbad, hrange⟩ := loadLength_lenValue_spec s .tn id.toNat z.toNat
  exact ⟨hok, hbad, hrange, loadLength_lenValue_spec s .tr id.toNat (s.dr zr).toNat⟩

end Sys2Proof.Machine
end

section
/-! SUPPORT. Compare and control flow (43_compare_control.md): the comparison in its order of tests, a branch by the
condition it stands for, and the checks, moves and bytes of the stack controller (44_stack.md R210 to R212) that CALL
and RET use. -/
namespace Sys2Proof.Machine

/-! ### comparisons -/

theorem cmpResult_eq (l r : Nat) : cmpResult l r = if l < r then 1 else if r < l then 2 else 0 := by
  obtain h | rfl | h := Nat.lt_trichotomy l r
  · simp [cmpResult, h, h.ne]
  · simp [cmpResult]
  · simp [cmpResult, h, h.ne', h.not_gt]

/-- Settles O20: every shape puts its comparison in ACC (`State.advance_setAcc`), the `r a` shape after its check. -/
theorem compareResults : Obligations.CompareResults := by
  unfold Obligations.CompareResults
  intro s x y n a b c
  have hset (f : Format) (l r : Nat) :
      (.next ((s.advance f).setDr .acc (cmpResult l r)) : StepResult) = .next (s.accSet (c l r) f.length) := by
    rw [State.advance_setAcc, cmpResult_eq]
  refine ⟨hset .rr _ _, hset .rn _ _, hset .aa _ _, fun v hv => ?_⟩
  calc
    exec (.cmpRA x a) s = .next ((s.advance .ra).setDr .acc (cmpResult (s.dr x).toNat v.toNat)) :=
      require_dataByte hv .dataOutOfRange fun w =>
        .next ((s.advance .ra).setDr .acc (cmpResult (s.dr x).toNat w.toNat))
    _ = .next (s.accSet (c (s.dr x).toNat v.toNat) 3) := hset .ra _ _

/-! ### jumps -/

section
variable (s : State) {taken : Bool} {c : Prop} [Decidable c] (f : Format) (target : Word)

theorem next_branch_true : (.next (s.branch f true target) : StepResult) = .next { s with pc := target } := rfl

/-- A branch taken where `c` holds. -/
theorem next_branch_of_iff (h : taken = true ↔ c) :
    (.next (s.branch f taken target) : StepResult) =
      .next { s with pc := if c then target else s.pc + BitVec.ofNat 16 f.length } := by
  simp only [State.branch, State.pcn, h]

/-- A branch taken where `c` fails. -/
theorem next_branch_of_iff_not (h : taken = true ↔ ¬c) :
    (.next (s.branch f taken target) : StepResult) =
      .next { s with pc := if c then s.pc + BitVec.ofNat 16 f.length else target } := by
  rw [next_branch_of_iff s f target h, ite_not]

end

/-- Settles O21: the branch that is always taken. -/
theorem jumpsGoToTheirTarget : Obligations.JumpsGoToTheirTarget := by
  unfold Obligations.JumpsGoToTheirTarget
  intro s w x
  exact ⟨next_branch_true s .w w, next_branch_true s .a (s.ar x)⟩

/-- Settles O22: every shape is a branch, and the condition of its flag is a condition on ACC's value or on OV. -/
theorem conditionalJumps : Obligations.ConditionalJumps := by
  unfold Obligations.ConditionalJumps
  intro s w x
  have hacc (v : Byte) : decide (s.acc = v) = true ↔ s.acc.toNat = v.toNat :=
    decide_eq_true_iff.trans BitVec.toNat_inj.symm
  have hnacc (v : Byte) : decide (s.acc ≠ v) = true ↔ ¬s.acc.toNat = v.toNat :=
    decide_eq_true_iff.trans (not_congr BitVec.toNat_inj.symm)
  have hnov : (!s.ov) = true ↔ ¬s.ov = true := by cases s.ov <;> decide
  refine ⟨?jeW, ?jeA, ?jneW, ?jneA, ?jlW, ?jlA, ?jgW, ?jgA, ?overW, ?overA, ?noverW, ?noverA⟩
  case jeW => exact next_branch_of_iff s .w w (hacc 0)
  case jeA => exact next_branch_of_iff s .a (s.ar x) (hacc 0)
  case jneW => exact next_branch_of_iff_not s .w w (hnacc 0)
  case jneA => exact next_branch_of_iff_not s .a (s.ar x) (hnacc 0)
  case jlW => exact next_branch_of_iff s .w w (hacc 1)
  case jlA => exact next_branch_of_iff s .a (s.ar x) (hacc 1)
  case jgW => exact next_branch_of_iff s .w w (hacc 2)
  case jgA => exact next_branch_of_iff s .a (s.ar x) (hacc 2)
  case overW => exact next_branch_of_iff s .w w .rfl
  case overA => exact next_branch_of_iff s .a (s.ar x) .rfl
  case noverW => exact next_branch_of_iff_not s .w w hnov
  case noverA => exact next_branch_of_iff_not s .a (s.ar x) hnov

/-! ### the stack controller -/

section
variable {s : State} {n : Nat}

theorem require_canPush (h : n ≤ s.sp.toNat) (k : TrapKind) (rest : StepResult) :
    require (s.canPush n) k s rest = rest := by
  rw [State.canPush, decide_eq_true h, require_true]

theorem require_canPush_of_lt (h : s.sp.toNat < n) (k : TrapKind) (rest : StepResult) :
    require (s.canPush n) k s rest = .next (s.takeTrap k) := by
  rw [State.canPush, decide_eq_false (Nat.not_le.2 h), require_false]

theorem require_canPop (h : s.sp.toNat + n ≤ 65535) (k : TrapKind) (rest : StepResult) :
    require (s.canPop n) k s rest = rest := by
  rw [State.canPop, decide_eq_true h, require_true]

theorem require_canPop_of_lt (h : 65535 < s.sp.toNat + n) (k : TrapKind) (rest : StepResult) :
    require (s.canPop n) k s rest = .next (s.takeTrap k) := by
  rw [State.canPop, decide_eq_false (Nat.not_le.2 h), require_false]

theorem State.push8_sp_toNat (h : 1 ≤ s.sp.toNat) (v : Byte) : (s.push8 v).sp.toNat = s.sp.toNat - 1 := by
  rw [State.push8_sp]
  bv_omega

theorem State.push16_sp_toNat (h : 2 ≤ s.sp.toNat) (v : Word) : (s.push16 v).sp.toNat = s.sp.toNat - 2 := by
  have hhigh := State.push8_sp_toNat (s := s) (by omega) (hiByte v)
  rw [State.push16, State.push8_sp_toNat (by omega), hhigh]
  omega

/-- A push writes below SP, so never at 0xFFFF, the one 16-bit address MEM does not have (20_memory.md R51). -/
theorem State.push8_byte (h : 1 ≤ s.sp.toNat) (v : Byte) (b : Nat) :
    (s.push8 v).byte b = if b = s.sp.toNat - 1 then v else s.byte b := by
  have hsp : (s.sp - 1).toNat = s.sp.toNat - 1 := State.push8_sp_toNat h v
  have hmem : s.sp.toNat - 1 < Config.memSize := by rw [Config.memSize]; omega
  simp only [State.byte, State.push8_mem, Memory.read_write, hsp, hmem, and_true]

/-- The high byte of a value pushed is at the higher address (44_stack.md R212). -/
theorem State.push16_byte (h : 2 ≤ s.sp.toNat) (v : Word) (b : Nat) :
    (s.push16 v).byte b =
      if b = s.sp.toNat - 1 then BitVec.ofNat 8 (v.toNat / 256)
      else if b = s.sp.toNat - 2 then BitVec.ofNat 8 (v.toNat % 256)
      else s.byte b := by
  have hhigh := State.push8_sp_toNat (s := s) (by omega) (hiByte v)
  rw [State.push16, State.push8_byte (by omega), State.push8_byte (by omega), hhigh, hiByte_eq_ofNat, loByte_eq_ofNat]
  by_cases hb : b = s.sp.toNat - 1
  · rw [if_neg (by omega), if_pos hb, if_pos hb]
  · rw [if_neg hb, if_neg hb, Nat.sub_sub]

/-- The value a pop of two bytes answers, by the bytes of MEM it joins (44_stack.md R212). -/
theorem State.top16_eq (h : s.sp.toNat ≤ 0xFFFD) :
    s.top16 = BitVec.ofNat 16 ((s.byte (s.sp.toNat + 1)).toNat * 256 + (s.byte s.sp.toNat).toNat) := by
  have hsp : (s.sp + 1).toNat = s.sp.toNat + 1 := by bv_omega
  rw [State.top16, be16, hsp]
  rfl

end

/-! ### calls and returns -/

/-- What CALL does where the stack has room, and where it has not (43_compare_control.md R201, R202). -/
theorem callTo_spec (s : State) (target : Word) (f : Format) :
    (2 ≤ s.sp.toNat →
      ∃ t, callTo target f s = .next t ∧ t = { s with pc := target, sp := t.sp, fp := t.sp, mem := t.mem } ∧
        t.sp.toNat = s.sp.toNat - 2 ∧
        ∀ b, t.byte b =
          if b = s.sp.toNat - 1 then BitVec.ofNat 8 ((s.pc + BitVec.ofNat 16 f.length).toNat / 256)
          else if b = s.sp.toNat - 2 then BitVec.ofNat 8 ((s.pc + BitVec.ofNat 16 f.length).toNat % 256)
          else s.byte b) ∧
    (s.sp.toNat < 2 → callTo target f s = .next (s.takeTrap .stackOverflow)) :=
  ⟨fun h => ⟨_, require_canPush h .stackOverflow _, rfl, State.push16_sp_toNat h _, State.push16_byte h (s.pcn f)⟩,
    fun h => require_canPush_of_lt h .stackOverflow _⟩

/-- Settles O23: either shape is a `callTo` of its own format, of which `callTo_spec` speaks. -/
theorem callPushesReturnAddress : Obligations.CallPushesReturnAddress := by
  unfold Obligations.CallPushesReturnAddress
  refine ⟨fun w => ?_, fun x => ?_, fun s i target len hcall => ?_⟩
  · rw [encode, hiByte_eq_ofNat, loByte_eq_ofNat]
  · cases x <;> rfl
  · have hexec : ∃ f : Format, f.length = len ∧ exec i s = callTo target f s := by
      obtain ⟨w, rfl, rfl, rfl⟩ | ⟨x, rfl, rfl, rfl⟩ := hcall
      · exact ⟨.w, rfl, rfl⟩
      · exact ⟨.a, rfl, rfl⟩
    obtain ⟨f, rfl, hexec⟩ := hexec
    rw [hexec]
    exact callTo_spec s target f

/-- Settles O24: RET's check, and the value it pops (`State.top16_eq`). -/
theorem retPopsTheProgramCounter : Obligations.RetPopsTheProgramCounter := by
  unfold Obligations.RetPopsTheProgramCounter
  refine ⟨rfl, fun s => ⟨fun h => ?_, fun h => ?_⟩⟩
  · rw [← State.top16_eq h]
    exact require_canPop (by omega) .stackUnderflow _
  · exact require_canPop_of_lt (by omega) .stackUnderflow _

end Sys2Proof.Machine
end

section
/-! SUPPORT. The stack instructions (44_stack.md): the one outcome each has where its check holds, and that a pop reads
back what a push stored where nothing between touched SP or the pushed bytes (44_stack.md R220). -/
namespace Sys2Proof.Machine

/-! ### pushes -/

section
variable {s t : State}

/-- A push with room goes on to the state after its check. -/
theorem eq_of_require_canPush {n : Nat} (h : n ≤ s.sp.toNat) {k : TrapKind} {u : State}
    (e : require (s.canPush n) k s (.next u) = .next t) : u = t :=
  Host.Outcome.next.inj ((require_canPush h k _).symm.trans e)

/-- A push of one byte by an instruction of format `f`: the state it leaves, by address (44_stack.md R210). -/
theorem State.require_push8_spec (f : Format) (h : 1 ≤ s.sp.toNat) (v : Byte) :
    ∃ t, require (s.canPush 1) .stackOverflow s (.next ((s.advance f).push8 v)) = .next t ∧
      s.OnlyStack t f.length ∧ t.sp.toNat = s.sp.toNat - 1 ∧
      ∀ b, t.byte b = if b = s.sp.toNat - 1 then v else s.byte b :=
  ⟨_, require_canPush h .stackOverflow _, rfl, State.push8_sp_toNat (s := s.advance f) h v,
    State.push8_byte (s := s.advance f) h v⟩

/-- A push of two bytes by an instruction of format `f`: the state it leaves, by address (44_stack.md R212). -/
theorem State.require_push16_spec (f : Format) (h : 2 ≤ s.sp.toNat) (v : Word) :
    ∃ t, require (s.canPush 2) .stackOverflow s (.next ((s.advance f).push16 v)) = .next t ∧
      s.OnlyStack t f.length ∧ t.sp.toNat = s.sp.toNat - 2 ∧
      ∀ b, t.byte b =
        if b = s.sp.toNat - 1 then BitVec.ofNat 8 (v.toNat / 256)
        else if b = s.sp.toNat - 2 then BitVec.ofNat 8 (v.toNat % 256)
        else s.byte b :=
  ⟨_, require_canPush h .stackOverflow _, rfl, State.push16_sp_toNat (s := s.advance f) h v,
    State.push16_byte (s := s.advance f) h v⟩

end

/-- Settles O25: each shape is a checked push of the value it names. -/
theorem pushStoresBelow : Obligations.PushStoresBelow := by
  unfold Obligations.PushStoresBelow
  intro s x n a
  exact ⟨fun h => State.require_push8_spec .r h (s.dr x), fun h => State.require_push8_spec .n h n,
    fun h => State.require_push16_spec .a h (s.ar a)⟩

/-! ### pops -/

section
variable {s : State}

theorem exec_popR (h : s.sp.toNat ≤ 0xFFFE) (x : DataReg) :
    exec (.popR x) s = .next (((s.advance .r).dropBytes 1).setDr x s.top8) :=
  require_canPop (by omega) .stackUnderflow _

theorem exec_popA (h : s.sp.toNat ≤ 0xFFFD) (x : AddrReg) :
    exec (.popA x) s = .next (((s.advance .a).dropBytes 2).setAr x s.top16) :=
  require_canPop (by omega) .stackUnderflow _

theorem exec_ret (h : s.sp.toNat ≤ 0xFFFD) : exec .ret s = .next { s.dropBytes 2 with pc := s.top16 } :=
  require_canPop (by omega) .stackUnderflow _

end

section
variable (s : State) (f : Format)

theorem State.advance_setDr (x : DataReg) (v : Byte) :
    (s.advance f).setDr x v = { s.setDr x v with pc := s.pc + BitVec.ofNat 16 f.length } := by
  cases x <;> rfl

theorem State.advance_dropBytes_setDr (n : Nat) (x : DataReg) (v : Byte) :
    ((s.advance f).dropBytes n).setDr x v =
      { s.setDr x v with sp := s.sp + BitVec.ofNat 16 n, pc := s.pc + BitVec.ofNat 16 f.length } := by
  cases x <;> rfl

theorem State.advance_dropBytes_setAr (n : Nat) (x : AddrReg) (v : Word) :
    ((s.advance f).dropBytes n).setAr x v =
      { s.setAr x v with sp := s.sp + BitVec.ofNat 16 n, pc := s.pc + BitVec.ofNat 16 f.length } := by
  cases x <;> rfl

end

/-- Settles O26: the value of a pop of two bytes is `State.top16_eq`'s. -/
theorem popLoads : Obligations.PopLoads := by
  unfold Obligations.PopLoads
  intro s x a
  refine ⟨fun h => ?popR, fun h => ?popA⟩
  case popR =>
    rw [exec_popR h, State.advance_dropBytes_setDr]
    rfl
  case popA =>
    rw [exec_popA h, State.advance_dropBytes_setAr, State.top16_eq h]
    rfl

/-! ### arguments -/

/-- Settles O27: the check of the bytes' range holds, and the register takes them. -/
theorem argReads : Obligations.ArgReads := by
  unfold Obligations.ArgReads
  intro s x a n e
  refine ⟨fun h => ?argRN, fun h => ?argAN⟩
  case argRN =>
    calc
      exec (.argRN x n) s = .next ((s.advance .rn).setDr x (s.byte e)) := require_rangeOk h h s .memOutOfRange _
      _ = .next { s.setDr x (s.byte e) with pc := s.pc + 3 } := congrArg _ (s.advance_setDr .rn x _)
  case argAN =>
    calc
      exec (.argAN a n) s = .next ((s.advance .an).setAr a (be16 (s.byte (e + 1)) (s.byte e))) :=
        require_rangeOk (Nat.lt_of_succ_lt h) h s .memOutOfRange _
      _ = .next { s.setAr a (be16 (s.byte (e + 1)) (s.byte e)) with pc := s.pc + 3 } :=
        congrArg _ (s.advance_setAr .an a _)

/-! ### the stack's bounds -/

/-- Settles O28: the check of every shape fails, and a failed check takes its trap. -/
theorem stackBoundTraps : Obligations.StackBoundTraps := by
  unfold Obligations.StackBoundTraps
  intro s x n a
  refine ⟨fun h => ⟨?pushR, ?pushN⟩, fun h => ?pushA, fun h => ?popR, fun h => ?popA⟩
  case pushR => exact require_canPush_of_lt (by omega) .stackOverflow _
  case pushN => exact require_canPush_of_lt (by omega) .stackOverflow _
  case pushA => exact require_canPush_of_lt h .stackOverflow _
  case popR => exact require_canPop_of_lt (by omega) .stackUnderflow _
  case popA => exact require_canPop_of_lt (by omega) .stackUnderflow _

/-! ### a pop after a push -/

section
variable {s t u : State}

/-- What a pop answers depends on SP and the bytes on top alone. -/
theorem State.top8_congr (hsp : u.sp = t.sp) (hbyte : u.byte t.sp.toNat = t.byte t.sp.toNat) : u.top8 = t.top8 := by
  rw [State.top8, hsp]
  exact hbyte

theorem State.top16_congr (h : t.sp.toNat ≤ 0xFFFD) (hsp : u.sp = t.sp)
    (hlow : u.byte t.sp.toNat = t.byte t.sp.toNat)
    (hhigh : u.byte (t.sp.toNat + 1) = t.byte (t.sp.toNat + 1)) : u.top16 = t.top16 := by
  rw [State.top16_eq (hsp ▸ h), State.top16_eq h, hsp, hlow, hhigh]

theorem State.push8_top8 (h : 1 ≤ s.sp.toNat) (v : Byte) : (s.push8 v).top8 = v :=
  calc
    (s.push8 v).top8 = (s.push8 v).byte (s.sp.toNat - 1) := by rw [← State.push8_sp_toNat h v]; rfl
    _ = v := by rw [State.push8_byte h, if_pos rfl]

/-- A pop of two bytes has them after a push of two. -/
theorem State.push16_sp_le (h : 2 ≤ s.sp.toNat) (v : Word) : (s.push16 v).sp.toNat ≤ 0xFFFD := by
  rw [State.push16_sp_toNat h]
  omega

/-- The two bytes of a value pushed are joined again (44_stack.md R212). -/
theorem State.push16_top16 (h : 2 ≤ s.sp.toNat) (v : Word) : (s.push16 v).top16 = v := by
  have hhigh : s.sp.toNat - 2 + 1 = s.sp.toNat - 1 := by omega
  have hlow : s.sp.toNat - 2 ≠ s.sp.toNat - 1 := by omega
  rw [State.top16_eq (State.push16_sp_le h v), State.push16_sp_toNat h, hhigh, State.push16_byte h, if_pos rfl,
    State.push16_byte h, if_neg hlow, if_pos rfl, ← hiByte_eq_ofNat, ← loByte_eq_ofNat]
  exact be16_parts v

theorem State.push8_sp_add (s : State) (v : Byte) : (s.push8 v).sp + 1 = s.sp := BitVec.sub_add_cancel _ _

theorem State.push16_sp_add (s : State) (v : Word) : (s.push16 v).sp + 2 = s.sp := by
  rw [State.push16, State.push8_sp, State.push8_sp]
  bv_omega

end

/-- POP r undoes PUSH r: the byte on top is the one pushed, and SP is back (44_stack.md R220). -/
theorem popR_of_pushR {s t u : State} {x : DataReg} (y : DataReg) (h : 1 ≤ s.sp.toNat)
    (hpush : exec (.pushR x) s = .next t) (hsp : u.sp = t.sp) (hbyte : u.byte t.sp.toNat = t.byte t.sp.toNat) :
    ∃ v, exec (.popR y) u = .next v ∧ v.dr y = s.dr x ∧ v.sp = s.sp := by
  obtain rfl : (s.advance .r).push8 (s.dr x) = t := eq_of_require_canPush h hpush
  have hpop : u.sp.toNat ≤ 0xFFFE := by
    rw [hsp, State.push8_sp_toNat (s := s.advance .r) h, State.advance_sp]
    omega
  refine ⟨_, exec_popR hpop y, ?_, ?_⟩
  · rw [State.setDr_dr_same, State.top8_congr hsp hbyte]
    exact State.push8_top8 (s := s.advance .r) h _
  · rw [State.setDr_sp, State.dropBytes_sp, State.advance_sp, hsp]
    exact State.push8_sp_add (s.advance .r) _

/-- POP a undoes PUSH a: the bytes on top join to the value pushed, and SP is back (44_stack.md R220). -/
theorem popA_of_pushA {s t u : State} {x : AddrReg} (y : AddrReg) (h : 2 ≤ s.sp.toNat)
    (hpush : exec (.pushA x) s = .next t) (hsp : u.sp = t.sp) (hlow : u.byte t.sp.toNat = t.byte t.sp.toNat)
    (hhigh : u.byte (t.sp.toNat + 1) = t.byte (t.sp.toNat + 1)) :
    ∃ v, exec (.popA y) u = .next v ∧ v.ar y = s.ar x ∧ v.sp = s.sp := by
  obtain rfl : (s.advance .a).push16 (s.ar x) = t := eq_of_require_canPush h hpush
  have hroom := State.push16_sp_le (s := s.advance .a) h (s.ar x)
  refine ⟨_, exec_popA (hsp ▸ hroom) y, ?_, ?_⟩
  · rw [State.setAr_ar_same, State.top16_congr hroom hsp hlow hhigh]
    exact State.push16_top16 (s := s.advance .a) h _
  · rw [State.setAr_sp, State.dropBytes_sp, State.advance_sp, hsp]
    exact State.push16_sp_add (s.advance .a) _

/-- RET undoes CALL w but for FP, which stays as RET found it (70_reset_and_hazards.md R361, R362). -/
theorem ret_of_callW {s t u : State} {w : Addr} (h : 2 ≤ s.sp.toNat) (hcall : exec (.callW w) s = .next t)
    (hsp : u.sp = t.sp) (hlow : u.byte t.sp.toNat = t.byte t.sp.toNat)
    (hhigh : u.byte (t.sp.toNat + 1) = t.byte (t.sp.toNat + 1)) :
    ∃ v, exec .ret u = .next v ∧ v.pc = s.pc + 3 ∧ v.sp = s.sp ∧ v.fp = u.fp := by
  obtain rfl : { s.push16 (s.pcn .w) with fp := (s.push16 (s.pcn .w)).sp, pc := w } = t :=
    eq_of_require_canPush h hcall
  have hroom := State.push16_sp_le h (s.pcn .w)
  refine ⟨_, exec_ret (hsp ▸ hroom), ?_, ?_, rfl⟩
  · exact (State.top16_congr hroom hsp hlow hhigh).trans (State.push16_top16 h _)
  · rw [State.dropBytes_sp, hsp]
    exact s.push16_sp_add _

/-- Settles O29, by `popR_of_pushR`, `popA_of_pushA` and `ret_of_callW`. -/
theorem stackLaws : Obligations.StackLaws := by
  unfold Obligations.StackLaws
  exact ⟨fun _ _ _ _ y => popR_of_pushR y, fun _ _ _ _ y => popA_of_pushA y, fun _ _ _ _ => ret_of_callW⟩

end Sys2Proof.Machine
end

section
/-! SUPPORT. The output port (45_print.md): the numeral of a byte, what a channel takes and keeps, and the one outcome
an output instruction has where its channel takes its bytes, where it breaks, and on the piped link. -/
namespace Sys2Proof.Machine

/-! ### the decimal numeral -/

/-- Settles O30: one, two or three digits, as `decimal` compares the byte with 10 and with 100. -/
theorem decimalRendering : Obligations.DecimalRendering := by
  unfold Obligations.DecimalRendering
  intro v
  have hv : v.toNat < 256 := v.isLt
  unfold decimal
  dsimp only
  split
  case isTrue h => exact ⟨v.toNat, [], rfl, List.forall_mem_singleton.2 h, fun _ => rfl, Nat.zero_add _⟩
  case isFalse h10 =>
    split
    case isTrue h100 =>
      refine ⟨v.toNat / 10, [v.toNat % 10], rfl, List.forall_mem_cons.2 ⟨by omega, ?_⟩, by omega, ?_⟩
      · exact List.forall_mem_singleton.2 (by omega)
      · simp only [List.foldl_cons, List.foldl_nil]
        omega
    case isFalse h100 =>
      refine ⟨v.toNat / 100, [v.toNat / 10 % 10, v.toNat % 10], rfl, List.forall_mem_cons.2 ⟨by omega, ?_⟩,
        by omega, ?_⟩
      · exact List.forall_mem_cons.2 ⟨by omega, List.forall_mem_singleton.2 (by omega)⟩
      · simp only [List.foldl_cons, List.foldl_nil]
        omega

/-! ### channels -/

section
variable {c : OutChannel} {bs : List Byte} {m : Nat}

theorem OutChannel.takes_of_left_none (h : c.left = none) (n : Nat) : c.Takes n := by
  simp [OutChannel.Takes, h]

theorem OutChannel.takes_of_left_some {n : Nat} (h : c.left = some m) (hn : n ≤ m) : c.Takes n := by
  simpa [OutChannel.Takes, h] using hn

/-- A channel with room takes all the bytes (45_print.md R230). -/
theorem OutChannel.send_of_takes (h : c.Takes bs.length) :
    c.send bs = (⟨c.taken ++ bs, c.left.map (· - bs.length)⟩, true) := by
  unfold OutChannel.send
  split
  case h_1 hl => rw [hl]; rfl
  case h_2 n hl => rw [if_pos (h n hl), hl]; rfl

/-- A channel that breaks keeps what it took before (45_print.md R230). -/
theorem OutChannel.send_of_short (hl : c.left = some m) (h : m < bs.length) :
    c.send bs = (⟨c.taken ++ bs.take m, some 0⟩, false) := by
  simp only [OutChannel.send, hl, if_neg (Nat.not_le.2 h)]

/-- A broken channel takes nothing more (log 10). -/
theorem OutChannel.send_of_broken (h : c.left = some 0) (bs : List Byte) : (c.send bs).1 = c := by
  obtain ⟨taken, left⟩ := c
  subst h
  cases bs <;> simp [OutChannel.send]

end

/-! ### the outcomes of an output instruction -/

section
variable {s : State} {bs : List Byte} {m : Nat}

/-- An instruction that has sent bytes and then raises a trap keeps what the host took (60_exceptions.md R304). -/
theorem raise_direct (hm : s.mode = .direct) (k : TrapKind) (h : HostSide) :
    raise k { s with host := h } = .next { s with
      status := .crashed k, host := { h with stderr := (h.stderr.send (crashReport k s.dump)).1 } } := by
  simp only [raise, State.takeTrap, hm]
  rfl

theorem printBytes_of_takes (hm : s.mode = .direct) (h : s.host.stdout.Takes bs.length) (f : Format) :
    printBytes bs f s = .next { s with
      pc := s.pc + BitVec.ofNat 16 f.length
      host := { s.host with stdout := ⟨s.host.stdout.taken ++ bs, s.host.stdout.left.map (· - bs.length)⟩ } } := by
  simp only [printBytes, hm, OutChannel.send_of_takes h]
  rfl

theorem printBytes_of_short (hm : s.mode = .direct) (hl : s.host.stdout.left = some m) (h : m < bs.length)
    (f : Format) :
    printBytes bs f s = .next { s with
      status := .crashed .ioBroken
      host := { s.host with
        stdout := ⟨s.host.stdout.taken ++ bs.take m, some 0⟩
        stderr := (s.host.stderr.send (crashReport .ioBroken s.dump)).1 } } := by
  rw [← raise_direct hm .ioBroken { s.host with stdout := ⟨s.host.stdout.taken ++ bs.take m, some 0⟩ }]
  simp only [printBytes, hm, OutChannel.send_of_short hl h]
  rfl

/-- The text of the dump an instruction of format `f` sends in direct mode, with PC past it (45_print.md R240). -/
def State.debugText (s : State) (f : Format) : List Byte := Config.dumpText (s.advance f).dump

theorem printDump_of_takes (hm : s.mode = .direct) (f : Format) (h : s.host.stderr.Takes (s.debugText f).length) :
    printDump f s = .next { s with
      pc := s.pc + BitVec.ofNat 16 f.length
      host := { s.host with stderr :=
        ⟨s.host.stderr.taken ++ s.debugText f, s.host.stderr.left.map (· - (s.debugText f).length)⟩ } } := by
  have e := OutChannel.send_of_takes h
  rw [State.debugText] at e
  simp only [printDump, hm, e]
  rfl

theorem printDump_of_short (hm : s.mode = .direct) (hl : s.host.stderr.left = some m) (f : Format)
    (h : m < (s.debugText f).length) :
    printDump f s = .next { s with
      status := .crashed .ioBroken
      host := { s.host with stderr := ⟨s.host.stderr.taken ++ (s.debugText f).take m, some 0⟩ } } := by
  have e := OutChannel.send_of_short hl h
  rw [State.debugText] at e
  have hraise := raise_direct hm .ioBroken { s.host with
    stderr := ⟨s.host.stderr.taken ++ (s.debugText f).take m, some 0⟩ }
  rw [OutChannel.send_of_broken rfl] at hraise
  rw [← hraise]
  simp only [printDump, hm, e]
  rfl

theorem printDump_piped (hm : s.mode = .piped) (hl : s.host.sentLeft = none) (f : Format) :
    printDump f s = .next { s with
      pc := s.pc + BitVec.ofNat 16 f.length
      host := { s.host with sent := s.host.sent ++ [.dump (s.advance f).dump] } } := by
  simp only [printDump, hm, State.emit_sent s _ hl]
  rfl

end

/-! ### the bytes of each output instruction -/

section
variable {s : State} {i : Instr} {bs : List Byte} {len : Nat}

/-- PRTS of a string inside STR passes both of its checks (45_print.md R236). -/
theorem exec_prtsS {x : StringId} {n : Byte} (hn : s.str[x.toNat]? = some n)
    (hfit : n = 0 ∨ x.toNat + 1 + n.toNat ≤ s.str.length) :
    exec (.prtsS x) s = printBytes ((s.str.drop (x.toNat + 1)).take n.toNat) .s s := by
  have hx : x.toNat < s.str.length := (List.getElem?_eq_some_iff.1 hn).1
  have hbyte : byteAt s.str x.toNat = n := by rw [byteAt, List.getD_eq_getElem?_getD, hn]; rfl
  have hcheck : (n.toNat == 0 || rangeOk (x.toNat + 1) n.toNat s.str.length) = true := by
    rw [Bool.or_eq_true, beq_iff_eq, rangeOk_iff]
    have hzero : n = 0 → n.toNat = 0 := fun h => h ▸ rfl
    have hsize := hfit.imp_left hzero
    omega
  calc
    exec (.prtsS x) s = execPrtsS x s := rfl
    _ = _ := by rw [execPrtsS, hbyte, hcheck, require_rangeOk hx hx, require_true, bytesAt]

/-- An instruction that passes its range check sends its bytes, and goes on after its own length
(45_print.md R232 to R239). -/
theorem State.Prints.exec_eq (h : s.Prints i bs len) : ∃ f : Format, f.length = len ∧ exec i s = printBytes bs f s := by
  rcases h with ⟨x, rfl, rfl, rfl⟩ | ⟨n, rfl, rfl, rfl⟩ | ⟨x, rfl, rfl, rfl⟩ | ⟨n, rfl, rfl, rfl⟩ |
    ⟨x, n, rfl, hn, hfit, rfl, rfl⟩ | ⟨rfl, rfl, rfl⟩ | ⟨x, rfl, ha, hfit, rfl, rfl⟩ | ⟨x, rfl, ha, hfit, rfl, rfl⟩
  · exact ⟨.r, rfl, rfl⟩
  · exact ⟨.n, rfl, rfl⟩
  · exact ⟨.r, rfl, rfl⟩
  · exact ⟨.n, rfl, rfl⟩
  · exact ⟨.s, rfl, exec_prtsS hn hfit⟩
  · exact ⟨.bare, rfl, rfl⟩
  · exact ⟨.a, rfl, require_rangeOk ha hfit s .dataOutOfRange _⟩
  · exact ⟨.a, rfl, require_rangeOk ha hfit s .memOutOfRange _⟩

end

/-- Settles O31: the instruction is its `printBytes`, and the channel takes all of its bytes. -/
theorem printInDirectMode : Obligations.PrintInDirectMode := by
  unfold Obligations.PrintInDirectMode
  intro s i bs len hprints hm htakes
  obtain ⟨f, rfl, hexec⟩ := hprints.exec_eq
  exact ⟨_, hexec.trans (printBytes_of_takes hm htakes f), rfl, rfl⟩

/-- Settles O33: the trap is taken in the state with the bytes taken on stdout, and writes to stderr alone. -/
theorem brokenStdoutTraps : Obligations.BrokenStdoutTraps := by
  unfold Obligations.BrokenStdoutTraps
  intro s i bs len m hprints hm hl hshort
  obtain ⟨f, -, hexec⟩ := hprints.exec_eq
  exact ⟨_, hexec.trans (printBytes_of_short hm hl hshort f), rfl, rfl, rfl⟩

/-! ### the dump -/

/-- The two bytes of a 16-bit field of the dump, high byte first (10_state.md R39). -/
def wordBytes (w : Word) : List Byte := [BitVec.ofNat 8 (w.toNat / 256), BitVec.ofNat 8 (w.toNat % 256)]

theorem State.dump_eq (s : State) :
    s.dump = wordBytes s.pc ++ wordBytes s.a0 ++ wordBytes s.a1 ++ wordBytes s.sp ++ wordBytes s.fp ++
      [s.acc, s.d0, s.d1, s.d2, s.d3, if s.ov then 1 else 0] := by
  simp only [State.dump, wordBytes, hiByte_eq_ofNat, loByte_eq_ofNat, List.cons_append, List.nil_append]

/-- Settles O34: the dump is that of the state with PC moved on, and stderr takes its text, breaks on it, or the link
takes its frame. -/
theorem debugDumps : Obligations.DebugDumps := by
  unfold Obligations.DebugDumps
  intro s pcn half dump text
  have hdump : (s.advance .bare).dump = dump := (s.advance .bare).dump_eq
  have htext : s.debugText .bare = text := congrArg Config.dumpText hdump
  refine ⟨fun hm hl => ?unbroken, fun hm m hl => ?limited, fun hm hl => ?piped⟩
  case unbroken =>
    have h := printDump_of_takes hm .bare (OutChannel.takes_of_left_none hl _)
    rwa [htext, hl] at h
  case limited =>
    by_cases hshort : m < text.length
    · have h := printDump_of_short hm hl .bare (htext ▸ hshort)
      rw [htext] at h
      exact ⟨_, h, rfl, (if_pos hshort).symm, (if_pos hshort).symm, rfl⟩
    · have hfits : text.length ≤ m := Nat.not_lt.1 hshort
      have h := printDump_of_takes hm .bare (OutChannel.takes_of_left_some hl (htext ▸ hfits))
      rw [htext] at h
      refine ⟨_, h, ?_, (if_neg hshort).symm, (if_neg hshort).symm, rfl⟩
      rw [List.take_of_length_le hfits]
  case piped =>
    have h := printDump_piped hm hl .bare
    rwa [hdump] at h

end Sys2Proof.Machine
end

section
/-! SUPPORT. The file port (46_files.md): opening a handle on demand, what a request to the host moves and what it uses
up, a file after a write, and the one outcome a file instruction has on an available and on an unavailable handle. -/
namespace Sys2Proof.Machine

/-! ### handles -/

section
variable {s u : State} {f : Byte} {ok : Bool}

theorem State.setHandle_handle_self (s : State) (f : Byte) : s.setHandle f (s.handle f) = s := by
  simp only [State.setHandle, State.handle, Vector.set_getElem_self]

theorem HostSide.fileOpen_fst (h : HostSide) (f : Byte) :
    (h.fileOpen f).1 = (h.files[f.toNat]?.any (·.openable) && h.openAnswers.headD true) := by
  cases hfile : h.files[f.toNat]? <;> cases hanswers : h.openAnswers <;>
    simp [HostSide.fileOpen, hfile, hanswers, Bool.and_comm]

theorem HostSide.fileOpen_snd (h : HostSide) (f : Byte) :
    (h.fileOpen f).2 = { h with openAnswers := h.openAnswers.tail } := by
  unfold HostSide.fileOpen
  dsimp only
  split
  case h_1 hanswers => rw [hanswers]; rfl
  case h_2 hanswers => obtain ⟨⟩ := h; subst hanswers; rfl

theorem State.avail_of_opened (h : (s.handle f).opened = true) : s.avail f = (true, s) := by
  rw [State.avail, if_pos h]

/-- A closed handle becomes as open as the host answers, with its cursor as it was (46_files.md R251). -/
theorem State.avail_of_closed (h : (s.handle f).opened = false) :
    s.avail f = ((s.host.fileOpen f).1,
      { s.setHandle f { s.handle f with opened := (s.host.fileOpen f).1 } with host := (s.host.fileOpen f).2 }) := by
  have hself : s.setHandle f { s.handle f with opened := false } = s := by
    rw [← h]
    exact s.setHandle_handle_self f
  rw [State.avail, if_neg (ne_true_of_eq_false h)]
  dsimp only
  split
  case isTrue hok => rw [hok]; rfl
  case isFalse hok => rw [eq_false_of_ne_true hok, hself]

/-- A request for the handle leaves PC, so PCn is counted from the instruction's own PC. -/
theorem State.advance_of_avail (h : s.avail f = (ok, u)) (fmt : Format) :
    u.advance fmt = { u with pc := s.pc + BitVec.ofNat 16 fmt.length } := by
  have hpc := s.avail_pc f
  rw [h] at hpc
  rw [State.advance, State.pcn, hpc]

theorem State.mem_of_avail (h : s.avail f = (ok, u)) : u.mem = s.mem := by
  have hmem := s.avail_mem f
  rwa [h] at hmem

end

/-- Settles O36: an opened handle by `State.avail_of_opened`, a closed one by `State.avail_of_closed` with the host's
answer of `HostSide.fileOpen_fst`. -/
theorem handlesOpenOnDemand : Obligations.HandlesOpenOnDemand := by
  unfold Obligations.HandlesOpenOnDemand
  intro s f
  refine ⟨State.avail_of_opened, fun hclosed => ?_⟩
  intro ok
  have hok : (s.host.fileOpen f).1 = ok := s.host.fileOpen_fst f
  have havail := State.avail_of_closed hclosed
  rw [hok, HostSide.fileOpen_snd] at havail
  have hset := s.setHandle_handle_same f { s.handle f with opened := ok }
  exact ⟨_, havail, (congrArg FileHandle.opened hset :), (congrArg FileHandle.cursor hset :),
    fun g hg => s.setHandle_handle_ne f g _ hg, rfl⟩

/-! ### requests to the host -/

section
variable {h : HostSide}

theorem HostSide.limit_snd (h : HostSide) (k : Nat) : (h.limit k).2 = { h with ioCaps := h.ioCaps.tail } := by
  unfold HostSide.limit
  split
  case h_1 hcaps => rw [hcaps]; rfl
  case h_2 hcaps => obtain ⟨⟩ := h; subst hcaps; rfl

theorem HostSide.limit_of_no_errors (hcaps : h.ioCaps = []) (k : Nat) : (h.limit k).1 = k := by
  rw [HostSide.limit, hcaps]

theorem HostSide.fileSkip_le_min (h : HostSide) (f : Byte) (p n : Nat) :
    (h.fileSkip f p n).1 ≤ min n ((h.fileBytes f).length - p) :=
  h.limit_le _

theorem HostSide.fileSkip_of_no_errors (hcaps : h.ioCaps = []) (f : Byte) (p n : Nat) :
    (h.fileSkip f p n).1 = min n ((h.fileBytes f).length - p) :=
  HostSide.limit_of_no_errors hcaps _

theorem HostSide.fileSkip_snd (h : HostSide) (f : Byte) (p n : Nat) :
    (h.fileSkip f p n).2 = { h with ioCaps := h.ioCaps.tail } :=
  h.limit_snd _

/-- A read moves as far as a skip of the same count, and answers the bytes it passes (60_exceptions.md R316). -/
theorem HostSide.fileRead_eq (h : HostSide) (f : Byte) (p n : Nat) :
    h.fileRead f p n = (((h.fileBytes f).drop p).take (h.fileSkip f p n).1, (h.fileSkip f p n).2) := by
  have hlen : (((h.fileBytes f).drop p).take n).length = min n ((h.fileBytes f).length - p) := by
    rw [List.length_take, List.length_drop]
  have hle : (h.limit (min n ((h.fileBytes f).length - p))).1 ≤ n := h.fileSkip_le f p n
  simp only [HostSide.fileRead, HostSide.fileSkip, hlen, List.take_take, Nat.min_eq_left hle]

theorem HostSide.fileRead_count (h : HostSide) (f : Byte) (p n : Nat) :
    (h.fileRead f p n).1.length = (h.fileSkip f p n).1 := by
  rw [HostSide.fileRead_eq, List.length_take, List.length_drop]
  exact Nat.min_eq_left ((h.fileSkip_le_min f p n).trans (Nat.min_le_right _ _))

theorem HostSide.fileRead_getD (h : HostSide) (f : Byte) (p n : Nat) {j : Nat} (hj : j < (h.fileSkip f p n).1) :
    (h.fileRead f p n).1.getD j 0 = (h.fileBytes f).getD (p + j) 0 := by
  rw [HostSide.fileRead_eq]
  exact bytesAt_getD p hj

/-! ### a file after a write -/

theorem overlay_length (file : List Byte) (p : Nat) (bs : List Byte) :
    (overlay file p bs).length = max file.length (p + bs.length) := by
  simp only [overlay, List.length_append, List.length_take, List.length_drop, List.length_replicate]
  omega

/-- The bytes of a file with its gap filled: those it has, and 0x00 beyond (60_exceptions.md R316). -/
theorem append_replicate_zero_getD (file : List Byte) (n j : Nat) :
    (file ++ List.replicate n 0).getD j 0 = file.getD j 0 := by
  obtain hj | hj := Nat.lt_or_ge j file.length
  · rw [List.getD_append _ _ _ _ hj]
  · rw [List.getD_append_right _ _ _ _ hj, List.getD_eq_getElem?_getD,
      List.getElem?_getD_replicate_default_eq, List.getD_eq_default _ _ hj]

theorem overlay_getD (file : List Byte) (p : Nat) (bs : List Byte) (j : Nat) :
    (overlay file p bs).getD j 0 = if p ≤ j ∧ j < p + bs.length then bs.getD (j - p) 0 else file.getD j 0 := by
  have hfilled := append_replicate_zero_getD file (p - file.length) j
  have hlen : p ≤ (file ++ List.replicate (p - file.length) 0).length := by
    rw [List.length_append, List.length_replicate]
    omega
  rw [← hfilled, overlay]
  generalize file ++ List.replicate (p - file.length) (0 : Byte) = filled at hlen ⊢
  have htake : (filled.take p).length = p := List.length_take_of_le hlen
  have hfront : (filled.take p ++ bs).length = p + bs.length := by rw [List.length_append, htake]
  obtain hin | hafter := Nat.lt_or_ge j (p + bs.length)
  · rw [List.getD_append _ _ _ _ (hfront ▸ hin)]
    obtain hbefore | hfrom := Nat.lt_or_ge j p
    · rw [if_neg (by omega), List.getD_append _ _ _ _ (htake.symm ▸ hbefore), List.getD_eq_getElem?_getD,
        List.getElem?_take_of_lt hbefore, List.getD_eq_getElem?_getD]
    · rw [if_pos ⟨hfrom, hin⟩, List.getD_append_right _ _ _ _ (htake.symm ▸ hfrom), htake]
  · rw [if_neg (by omega), List.getD_append_right _ _ _ _ (hfront.symm ▸ hafter), hfront,
      List.getD_eq_getElem?_getD, List.getElem?_drop, Nat.add_sub_cancel' hafter, List.getD_eq_getElem?_getD]

section
variable {f : Byte}

theorem HostSide.fileWrite_snd (hf : f.toNat < h.files.length) (p : Nat) (bs : List Byte) :
    (h.fileWrite f p bs).2 = { h with files := (h.fileWrite f p bs).2.files, ioCaps := h.ioCaps.tail } := by
  simp only [HostSide.fileWrite, List.getElem?_eq_getElem hf, HostSide.limit_snd]

/-- Without an I/O error a write stops only where it would reach position 2^32 - 1 (60_exceptions.md R316, log 9). -/
theorem HostSide.fileWrite_of_no_errors (hf : f.toNat < h.files.length) (hcaps : h.ioCaps = []) {p : Nat}
    {bs : List Byte} (hfit : p + bs.length ≤ Config.fileTop) : (h.fileWrite f p bs).1 = bs.length := by
  simp only [HostSide.fileWrite, List.getElem?_eq_getElem hf, HostSide.limit_of_no_errors hcaps]
  omega

theorem HostSide.fileWrite_fileBytes (hf : f.toNat < h.files.length) (p : Nat) (bs : List Byte) :
    (h.fileWrite f p bs).2.fileBytes f = overlay (h.fileBytes f) p (bs.take (h.fileWrite f p bs).1) := by
  simp [HostSide.fileWrite, HostSide.fileBytes, hf]

theorem HostSide.fileWrite_fileBytes_of_ne {g : Byte} (hg : g ≠ f) (p : Nat) (bs : List Byte) :
    (h.fileWrite f p bs).2.fileBytes g = h.fileBytes g := by
  have hne : f.toNat ≠ g.toNat := fun e => hg (BitVec.eq_of_toNat_eq e.symm)
  unfold HostSide.fileWrite
  split
  · rfl
  · simp [HostSide.fileBytes, hne]

end

end

/-! ### instructions on an available handle -/

/-- `u` after an instruction of format `fmt` that has moved `k` bytes at the cursor of handle `f`, with MEM and the
host's side after it (46_files.md R253, R255, R259). -/
def State.transferred (u : State) (f : Byte) (fmt : Format) (k : Nat) (m : Memory) (g : HostSide) : State :=
  ({ u.advance fmt with host := g, mem := m, acc := BitVec.ofNat 8 k } : State).bumpCursor f k

theorem State.moved_transferred (u : State) (f : Byte) (fmt : Format) (k : Nat) (m : Memory) {g : HostSide}
    (hg : g = { u.host with files := g.files, ioCaps := u.host.ioCaps.tail }) :
    u.Moved (u.transferred f fmt k m g) f k fmt.length := by
  have hset : (u.transferred f fmt k m g).handle f =
      { u.handle f with cursor := (u.handle f).cursor + BitVec.ofNat 32 k } := u.setHandle_handle_same f _
  exact ⟨rfl, rfl, by rw [hset], by rw [hset], fun j hj => u.setHandle_handle_ne f j _ hj, rfl, hg⟩

section
variable {s u : State} {f : Byte}

theorem execFopenN_of_available (h : s.avail f = (true, u)) :
    execFopenN f s = .next (State.setSize { u with pc := s.pc + 2 } (u.host.fileSize f)) := by
  simp only [execFopenN, h, State.advance_of_avail h]
  rfl

theorem execFopenN_of_unavailable (h : s.avail f = (false, u)) :
    execFopenN f s = .next { u with d3 := 0, d2 := 0, d1 := 0, d0 := 0, pc := s.pc + 2 } := by
  simp only [execFopenN, h, State.advance_of_avail h]
  rfl

theorem execFseekN_of_available (h : s.avail f = (true, u)) :
    execFseekN f s =
      .next (State.setHandle { u with pc := s.pc + 2 } f { u.handle f with cursor := s.seekPosition }) := by
  simp only [execFseekN, h, State.advance_of_avail h]
  rfl

theorem fileBranch_of_avail {ok : Bool} (h : s.avail f = (ok, u)) (target : Word) (fmt : Format) :
    fileBranch f target fmt s =
      .next { u with pc := if ok then target else s.pc + BitVec.ofNat 16 fmt.length } := by
  have hpcn : u.pcn fmt = s.pc + BitVec.ofNat 16 fmt.length := congrArg State.pc (State.advance_of_avail h fmt)
  simp only [fileBranch, h, State.branch, hpcn]

/-- A size in 32 bits lies in D3 to D0, most significant byte in D3 (46_files.md R252). -/
theorem State.setSize_toNat (s : State) (v : BitVec 32) :
    (s.setSize v).d3.toNat * 16777216 + (s.setSize v).d2.toNat * 65536 + (s.setSize v).d1.toNat * 256 +
      (s.setSize v).d0.toNat = v.toNat := by
  have hv := v.isLt
  simp only [State.setSize, BitVec.extractLsb'_toNat, Nat.shiftRight_eq_div_pow]
  omega

theorem State.seekPosition_toNat (s : State) : s.seekPosition.toNat =
    s.d3.toNat * 16777216 + s.d2.toNat * 65536 + s.d1.toNat * 256 + s.d0.toNat := by
  have h3 := s.d3.isLt
  have h2 := s.d2.isLt
  have h1 := s.d1.isLt
  have h0 := s.d0.isLt
  rw [State.seekPosition, BitVec.toNat_ofNat]
  omega

theorem execFskipNR_of_available (h : s.avail f = (true, u)) (x : DataReg) :
    execFskipNR f x s = .next (u.transferred f .nr (u.host.fileSkip f (u.handle f).cursor.toNat (s.dr x).toNat).1
      u.mem (u.host.fileSkip f (u.handle f).cursor.toNat (s.dr x).toNat).2) := by
  simp only [execFskipNR, h]
  rfl

theorem fileWriteBytes_of_available (h : s.avail f = (true, u)) (bs : List Byte) (fmt : Format) :
    fileWriteBytes f bs fmt s = .next (u.transferred f fmt (u.host.fileWrite f (u.handle f).cursor.toNat bs).1 u.mem
      (u.host.fileWrite f (u.handle f).cursor.toNat bs).2) := by
  simp only [fileWriteBytes, h]
  rfl

theorem fileReadTo_of_available (h : s.avail f = (true, u)) {a : Nat} (ha : a < Config.memSize)
    (hn : a + s.acc.toNat ≤ Config.memSize) (fmt : Format) :
    fileReadTo f a fmt s = .next (u.transferred f fmt
      (u.host.fileRead f (u.handle f).cursor.toNat s.acc.toNat).1.length
      (Memory.writeBytes u.mem a (u.host.fileRead f (u.handle f).cursor.toNat s.acc.toNat).1)
      (u.host.fileRead f (u.handle f).cursor.toNat s.acc.toNat).2) := by
  simp only [fileReadTo, require_rangeOk ha hn, h]
  rfl

/-- FILER on an available handle with its buffer in MEM (46_files.md R253, R254). -/
theorem fileReadTo_spec (h : s.avail f = (true, u)) {a : Nat} (ha : a < Config.memSize)
    (hn : a + s.acc.toNat ≤ Config.memSize) (fmt : Format) :
    ∃ t k, fileReadTo f a fmt s = .next t ∧ u.Moved t f k fmt.length ∧ t.host.files = u.host.files ∧
      k ≤ min s.acc.toNat ((u.host.fileBytes f).length - (u.handle f).cursor.toNat) ∧
      (u.host.ioCaps = [] → k = min s.acc.toNat ((u.host.fileBytes f).length - (u.handle f).cursor.toNat)) ∧
      ∀ b, t.byte b =
        if a ≤ b ∧ b < a + k then (u.host.fileBytes f).getD ((u.handle f).cursor.toNat + (b - a)) 0
        else s.byte b := by
  have hread := fileReadTo_of_available h ha hn fmt
  set p := (u.handle f).cursor.toNat
  have hcount := u.host.fileRead_count f p s.acc.toNat
  have hle := u.host.fileSkip_le_min f p s.acc.toNat
  have hsnd : (u.host.fileRead f p s.acc.toNat).2 = { u.host with ioCaps := u.host.ioCaps.tail } := by
    rw [HostSide.fileRead_eq, HostSide.fileSkip_snd]
  refine ⟨_, _, hread, u.moved_transferred f fmt _ _ (by rw [hsnd]), u.host.fileRead_files f p _, ?_, ?_,
    fun b => ?_⟩
  · rwa [hcount]
  · rw [hcount]
    exact fun hcaps => HostSide.fileSkip_of_no_errors hcaps f p _
  · have hfit : a + (u.host.fileRead f p s.acc.toNat).1.length ≤ Config.memSize := by omega
    refine (Memory.read_writeBytes u.mem a _ hfit b).trans ?_
    split
    case isTrue hb => exact u.host.fileRead_getD f p _ (by omega)
    case isFalse => exact congrArg (Memory.read · b) (State.mem_of_avail h)

/-- FILEW of the bytes `bs` on an available handle of a file the host has (46_files.md R255 to R258). -/
theorem fileWriteBytes_spec (h : s.avail f = (true, u)) (hf : f.toNat < u.host.files.length) (bs : List Byte)
    (fmt : Format) :
    let p := (u.handle f).cursor.toNat
    ∃ t k, fileWriteBytes f bs fmt s = .next t ∧ u.Moved t f k fmt.length ∧ t.mem = s.mem ∧ k ≤ bs.length ∧
      (u.host.ioCaps = [] → p + bs.length ≤ 4294967295 → k = bs.length) ∧
      (t.host.fileBytes f).length = max (u.host.fileBytes f).length (p + k) ∧
      (∀ j, (t.host.fileBytes f).getD j 0 =
        if p ≤ j ∧ j < p + k then bs.getD (j - p) 0 else (u.host.fileBytes f).getD j 0) ∧
      ∀ g, g ≠ f → t.host.fileBytes g = u.host.fileBytes g := by
  intro p
  have hle : (u.host.fileWrite f p bs).1 ≤ bs.length := u.host.fileWrite_le f p bs
  have hbytes := HostSide.fileWrite_fileBytes hf p bs
  have hlen : (bs.take (u.host.fileWrite f p bs).1).length = (u.host.fileWrite f p bs).1 :=
    List.length_take_of_le hle
  refine ⟨_, _, fileWriteBytes_of_available h bs fmt, u.moved_transferred f fmt _ _ (HostSide.fileWrite_snd hf p bs),
    (State.mem_of_avail h :), hle, fun hcaps => HostSide.fileWrite_of_no_errors hf hcaps, ?_, fun j => ?_,
    fun g hg => HostSide.fileWrite_fileBytes_of_ne hg p bs⟩
  · exact (congrArg List.length hbytes).trans (by rw [overlay_length, hlen])
  · refine (congrArg (·.getD j 0) hbytes).trans ?_
    rw [overlay_getD, hlen]
    split
    case isTrue hj =>
      rw [List.getD_eq_getElem?_getD, List.getElem?_take_of_lt (by omega), List.getD_eq_getElem?_getD]
    case isFalse => rfl

end

/-- Settles O37: FOPEN is `State.setSize` of the file's size, which 32 bits hold, or of 0. -/
theorem fopenReportsSize : Obligations.FopenReportsSize := by
  unfold Obligations.FopenReportsSize
  refine ⟨fun f => rfl, fun s u f => ⟨fun h hsize => ?_, execFopenN_of_unavailable⟩⟩
  have hfits : (u.host.fileSize f).toNat = (u.host.fileBytes f).length :=
    (BitVec.toNat_ofNat _ 32).trans (Nat.mod_eq_of_lt hsize)
  exact ⟨_, execFopenN_of_available h, (State.setSize_toNat _ _).trans hfits, rfl⟩

/-- Settles O38, by `fileReadTo_spec` with the operand's address. -/
theorem filerReads : Obligations.FilerReads := by
  unfold Obligations.FilerReads
  intro s u f i a len hi ha hn h
  rcases hi with ⟨w, rfl, rfl, rfl⟩ | ⟨x, rfl, rfl, rfl⟩
  · exact fileReadTo_spec h ha hn .nw
  · exact fileReadTo_spec h ha hn .na

/-- Settles O39, by `fileWriteBytes_spec`: every FILEW is `fileWriteBytes` of its bytes, a buffer in MEM passing its
check. -/
theorem filewWrites : Obligations.FilewWrites := by
  unfold Obligations.FilewWrites
  intro s u f i bs len hi h hf
  obtain ⟨fmt, rfl, hexec⟩ : ∃ fmt : Format, fmt.length = len ∧ exec i s = fileWriteBytes f bs fmt s := by
    rcases hi with ⟨w, rfl, ha, hn, rfl, rfl⟩ | ⟨x, rfl, ha, hn, rfl, rfl⟩ | ⟨x, rfl, rfl, rfl⟩ |
      ⟨n, rfl, rfl, rfl⟩
    · exact ⟨.nw, rfl, require_rangeOk ha hn s .memOutOfRange _⟩
    · exact ⟨.na, rfl, require_rangeOk ha hn s .memOutOfRange _⟩
    · exact ⟨.nr, rfl, rfl⟩
    · exact ⟨.nn, rfl, rfl⟩
  rw [hexec]
  exact fileWriteBytes_spec h hf bs fmt

/-- Settles O40: FSKIP moves as far as `HostSide.fileSkip`, FSEEK sets the cursor in the handle table, and FCHK
branches. -/
theorem cursorMovesAndChecks : Obligations.CursorMovesAndChecks := by
  unfold Obligations.CursorMovesAndChecks
  intro s u f x w a h
  refine ⟨?_, ?_, fileBranch_of_avail h w .nw, fileBranch_of_avail h (s.ar a) .na⟩
  · set p := (u.handle f).cursor.toNat
    have hsnd := u.host.fileSkip_snd f p (s.dr x).toNat
    exact ⟨_, _, execFskipNR_of_available h x, u.moved_transferred f .nr _ _ (by rw [hsnd]), (State.mem_of_avail h :),
      u.host.fileSkip_files f p _, u.host.fileSkip_le_min f p _,
      fun hcaps => HostSide.fileSkip_of_no_errors hcaps f p _⟩
  · have hset := u.setHandle_handle_same f { u.handle f with cursor := s.seekPosition }
    refine ⟨_, execFseekN_of_available h, rfl, ?_, ?_, fun g hg => u.setHandle_handle_ne f g _ hg⟩
    · exact (congrArg (·.cursor.toNat) hset).trans s.seekPosition_toNat
    · exact (congrArg FileHandle.opened hset :)

/-! ### instructions on an unavailable handle -/

section
variable {s u : State} {f : Byte}

/-- The side-channel result of the file instructions that report a count (46_files.md R253 to R259). -/
def State.nothingMoved (s u : State) (fmt : Format) : State :=
  { u with acc := 0, pc := s.pc + BitVec.ofNat 16 fmt.length }

theorem fileReadTo_of_unavailable (h : s.avail f = (false, u)) {a : Nat} (ha : a < Config.memSize)
    (hn : a + s.acc.toNat ≤ Config.memSize) (fmt : Format) :
    fileReadTo f a fmt s = .next (s.nothingMoved u fmt) := by
  simp only [fileReadTo, require_rangeOk ha hn, h, State.advance_of_avail h, State.nothingMoved]

theorem fileWriteBytes_of_unavailable (h : s.avail f = (false, u)) (bs : List Byte) (fmt : Format) :
    fileWriteBytes f bs fmt s = .next (s.nothingMoved u fmt) := by
  simp only [fileWriteBytes, h, State.advance_of_avail h, State.nothingMoved]

theorem fileWriteFrom_of_unavailable (h : s.avail f = (false, u)) {a : Nat} (ha : a < Config.memSize)
    (hn : a + s.acc.toNat ≤ Config.memSize) (fmt : Format) :
    fileWriteFrom f a fmt s = .next (s.nothingMoved u fmt) :=
  (require_rangeOk ha hn s .memOutOfRange _).trans (fileWriteBytes_of_unavailable h _ fmt)

theorem execFskipNR_of_unavailable (h : s.avail f = (false, u)) (x : DataReg) :
    execFskipNR f x s = .next (s.nothingMoved u .nr) := by
  simp only [execFskipNR, h, State.advance_of_avail h, State.nothingMoved]

theorem execFseekN_of_unavailable (h : s.avail f = (false, u)) :
    execFseekN f s = .next { u with pc := s.pc + 2 } := by
  simp only [execFseekN, h, State.advance_of_avail h]
  rfl

end

/-- Settles O41, by the outcome of each instruction's shared operation on an unavailable handle. -/
theorem unavailableHandles : Obligations.UnavailableHandles := by
  unfold Obligations.UnavailableHandles
  intro s u f n x w a h
  exact ⟨fun hw hn => ⟨fileReadTo_of_unavailable h hw hn .nw, fileWriteFrom_of_unavailable h hw hn .nw⟩,
    fun ha hn => ⟨fileReadTo_of_unavailable h ha hn .na, fileWriteFrom_of_unavailable h ha hn .na⟩,
    fileWriteBytes_of_unavailable h [s.dr x] .nr, fileWriteBytes_of_unavailable h [n] .nn,
    execFskipNR_of_unavailable h x, execFseekN_of_unavailable h, fileBranch_of_avail h w .nw,
    fileBranch_of_avail h (s.ar a) .na⟩

end Sys2Proof.Machine
end

section
/-! SUPPORT. Input and miscellany (47_input_misc.md): what the host's answers make of IPOLL, RCHR, RSTR and TIME, how a
wait begins and how a delivery ends it (60_exceptions.md R318, R319), and the open generator. -/
namespace Sys2Proof.Machine

/-! ### the host's answers -/

section
variable {s : State}

theorem State.keyReady_piped (hm : s.mode = .piped) : s.keyReady = (!s.keybuf.isEmpty, s) := by
  simp only [State.keyReady, hm]

theorem State.keyReady_direct_cons (hm : s.mode = .direct) {b : Bool} {r : List Bool} (h : s.host.ready = b :: r) :
    s.keyReady = (b, { s with host := { s.host with ready := r } }) := by
  simp only [State.keyReady, hm, h]

theorem State.keyReady_direct_nil (hm : s.mode = .direct) (h : s.host.ready = []) :
    s.keyReady = (Config.kbReady s.host.draws, { s with host := { s.host with draws := s.host.draws + 1 } }) := by
  simp only [State.keyReady, hm, h]

theorem State.takeKey_piped_cons (hm : s.mode = .piped) {b : Byte} {r : List Byte} (h : s.keybuf = b :: r) :
    s.takeKey = (some b, { s with keybuf := r }) := by
  simp only [State.takeKey, hm, h]

theorem State.takeKey_piped_nil (hm : s.mode = .piped) (h : s.keybuf = []) : s.takeKey = (none, s) := by
  simp only [State.takeKey, hm, h]

theorem State.takeKey_direct_cons (hm : s.mode = .direct) {k : Option Byte} {r : List (Option Byte)}
    (h : s.host.keys = k :: r) : s.takeKey = (k, { s with host := { s.host with keys := r } }) := by
  simp only [State.takeKey, hm, h]

theorem State.takeKey_direct_nil (hm : s.mode = .direct) (h : s.host.keys = []) : s.takeKey = (none, s) := by
  simp only [State.takeKey, hm, h]

theorem State.takeLine_piped_cons (hm : s.mode = .piped) {l : List Byte} {r : List (List Byte)}
    (h : s.strbuf = l :: r) : s.takeLine = (some l, { s with strbuf := r }) := by
  simp only [State.takeLine, hm, h]

theorem State.takeLine_piped_nil (hm : s.mode = .piped) (h : s.strbuf = []) : s.takeLine = (none, s) := by
  simp only [State.takeLine, hm, h]

theorem State.takeLine_direct_cons (hm : s.mode = .direct) {k : Option (List Byte)} {r : List (Option (List Byte))}
    (h : s.host.lines = k :: r) : s.takeLine = (k, { s with host := { s.host with lines := r } }) := by
  simp only [State.takeLine, hm, h]

theorem State.takeLine_direct_nil (hm : s.mode = .direct) (h : s.host.lines = []) : s.takeLine = (none, s) := by
  simp only [State.takeLine, hm, h]

/-! ### IPOLL -/

theorem pollTo_of_keyReady {ready : Bool} {u : State} (h : s.keyReady = (ready, u)) (target : Word) (f : Format) :
    pollTo target f s = .next (u.branch f ready target) := by
  simp only [pollTo, h]

end

/-- Settles O42: either shape is a `pollTo` of its own format, a branch on the answer of `State.keyReady`. -/
theorem ipollBranches : Obligations.IpollBranches := by
  unfold Obligations.IpollBranches
  intro s i target len hi
  obtain ⟨f, rfl, hexec⟩ : ∃ f : Format, f.length = len ∧ exec i s = pollTo target f s := by
    rcases hi with ⟨w, rfl, rfl, rfl⟩ | ⟨x, rfl, rfl, rfl⟩
    · exact ⟨.w, rfl, rfl⟩
    · exact ⟨.a, rfl, rfl⟩
  rw [hexec]
  refine ⟨fun hm => ?_, fun hm b r h => ?_, fun hm h => ⟨Config.kbReady s.host.draws, ?_⟩⟩
  · have hready : (!s.keybuf.isEmpty) = true ↔ ¬s.keybuf = [] := by simp
    rw [pollTo_of_keyReady (State.keyReady_piped hm), next_branch_of_iff_not s f target hready]
  · exact pollTo_of_keyReady (State.keyReady_direct_cons hm h) target f
  · exact pollTo_of_keyReady (State.keyReady_direct_nil hm h) target f

/-! ### the beginning of a wait -/

section
variable {s u : State}

theorem State.waitForKey_direct (hm : s.mode = .direct) (x : DataReg) :
    s.waitForKey x = { s with status := .waitKey s.pc x } := by
  simp only [State.waitForKey, hm]

theorem State.waitForKey_piped (hm : s.mode = .piped) (hl : s.host.sentLeft = none) (x : DataReg) :
    s.waitForKey x = { s with
      status := .waitKey s.pc x, proto := .awaitingKey
      host := { s.host with sent := s.host.sent ++ [.awaitKey] } } := by
  simp only [State.waitForKey, hm]
  exact State.emit_sent _ _ hl

theorem State.waitForLine_direct (hm : s.mode = .direct) (a : Word) (f : Format) :
    s.waitForLine a f = { s with status := .waitStr s.pc a f.length } := by
  simp only [State.waitForLine, hm]

theorem State.waitForLine_piped (hm : s.mode = .piped) (hl : s.host.sentLeft = none) (a : Word) (f : Format) :
    s.waitForLine a f = { s with
      status := .waitStr s.pc a f.length, proto := .awaitingString
      host := { s.host with sent := s.host.sent ++ [.awaitString] } } := by
  simp only [State.waitForLine, hm]
  exact State.emit_sent _ _ hl

/-! ### RCHR -/

theorem execRchrR_of_key {b : Byte} (h : s.takeKey = (some b, u)) (x : DataReg) :
    execRchrR x s = .next { u.setDr x b with pc := u.pc + 2 } := by
  simp only [execRchrR, h, State.advance_setDr]
  rfl

theorem execRchrR_of_no_key (h : s.takeKey = (none, u)) (x : DataReg) : execRchrR x s = .next (u.waitForKey x) := by
  simp only [execRchrR, h]

end

/-- A write of a data register and one of the host's side or of keybuf are apart. -/
theorem State.setDr_withHost (s : State) (g : HostSide) (x : DataReg) (v : Byte) :
    ({ s with host := g } : State).setDr x v = { s.setDr x v with host := g } := by
  cases x <;> rfl

theorem State.setDr_withKeybuf (s : State) (ks : List Byte) (x : DataReg) (v : Byte) :
    ({ s with keybuf := ks } : State).setDr x v = { s.setDr x v with keybuf := ks } := by
  cases x <;> rfl

/-- Settles O43: RCHR takes what `State.takeKey` answers, or begins a wait. -/
theorem rchrTakesOrWaits : Obligations.RchrTakesOrWaits := by
  unfold Obligations.RchrTakesOrWaits
  intro s x
  refine ⟨fun hm b r h => ?pipedKey, fun hm h hl => ?pipedWait, fun hm b r h => ?directKey, fun hm h => ?directWait,
    fun hm r h => ?directNoKey⟩
  case pipedKey => exact (execRchrR_of_key (State.takeKey_piped_cons hm h) x).trans (by rw [s.setDr_withKeybuf])
  case pipedWait =>
    exact (execRchrR_of_no_key (State.takeKey_piped_nil hm h) x).trans (by rw [State.waitForKey_piped hm hl])
  case directKey => exact (execRchrR_of_key (State.takeKey_direct_cons hm h) x).trans (by rw [s.setDr_withHost])
  case directWait =>
    exact (execRchrR_of_no_key (State.takeKey_direct_nil hm h) x).trans (by rw [State.waitForKey_direct hm])
  case directNoKey =>
    refine (execRchrR_of_no_key (State.takeKey_direct_cons hm h) x).trans ?_
    rw [State.waitForKey_direct (s := { s with host := { s.host with keys := r } }) hm]

/-! ### RSTR -/

/-- The stored line: its length, cut at 255, in ACC, and its bytes from the start address on (47_input_misc.md R274). -/
theorem State.storeLine_spec (s : State) {a : Word} (ha : a.toNat + 255 ≤ 65535) (l : List Byte) :
    (s.storeLine a l).acc.toNat = min l.length 255 ∧
      ∀ b, (s.storeLine a l).byte b =
        if a.toNat ≤ b ∧ b < a.toNat + min l.length 255 then l.getD (b - a.toNat) 0 else s.byte b := by
  have hlen : (l.take 255).length = min l.length 255 := by rw [List.length_take, Nat.min_comm]
  refine ⟨?_, fun b => ?_⟩
  · simp only [State.storeLine, Config.rstrMax, hlen, BitVec.toNat_ofNat]
    omega
  · have hroom : a.toNat + (l.take 255).length ≤ Config.memSize := by
      rw [hlen, Config.memSize]
      omega
    simp only [State.byte, State.storeLine, Config.rstrMax, Memory.read_writeBytes _ _ _ hroom, hlen]
    split
    · rw [List.getD_eq_getElem?_getD, List.getElem?_take_of_lt (by omega), List.getD_eq_getElem?_getD]
    · rfl

section
variable {s u : State} {a : Word}

theorem require_lineBuffer (ha : a.toNat + 255 ≤ 65535) (s : State) (k : TrapKind) (rest : StepResult) :
    require (rangeOk a.toNat Config.rstrMax Config.memSize) k s rest = rest :=
  require_rangeOk (by omega) ha s k rest

theorem readLineTo_of_line (ha : a.toNat + 255 ≤ 65535) {l : List Byte} (h : s.takeLine = (some l, u)) (f : Format) :
    readLineTo a f s = .next ((u.advance f).storeLine a l) := by
  simp only [readLineTo, require_lineBuffer ha, h]

theorem readLineTo_of_no_line (ha : a.toNat + 255 ≤ 65535) (h : s.takeLine = (none, u)) (f : Format) :
    readLineTo a f s = .next (u.waitForLine a f) := by
  simp only [readLineTo, require_lineBuffer ha, h]

end

/-- Settles O44: either shape is a `readLineTo` of its own format; the stored line is `State.storeLine_spec`'s. -/
theorem rstrStoresOrWaits : Obligations.RstrStoresOrWaits := by
  unfold Obligations.RstrStoresOrWaits
  intro s i a len hi ha
  obtain ⟨f, rfl, hexec⟩ : ∃ f : Format, f.length = len ∧ exec i s = readLineTo a f s := by
    rcases hi with ⟨w, rfl, rfl, rfl⟩ | ⟨x, rfl, rfl, rfl⟩
    · exact ⟨.w, rfl, rfl⟩
    · exact ⟨.a, rfl, rfl⟩
  rw [hexec]
  refine ⟨fun l hline => ?line, fun hm h hl => ?pipedWait, fun hm h => ?directWait, fun hm r h => ?directNoLine⟩
  case line =>
    rcases hline with ⟨hm, r, h⟩ | ⟨hm, r, h⟩
    · obtain ⟨hacc, hbytes⟩ := State.storeLine_spec (({ s with strbuf := r } : State).advance f) ha l
      refine ⟨_, readLineTo_of_line ha (State.takeLine_piped_cons hm h) f, hacc, hbytes, fun _ => ?_, fun hd => ?_⟩
      · rw [h]
        rfl
      · exact absurd (hm.symm.trans hd) (by decide)
    · obtain ⟨hacc, hbytes⟩ :=
        State.storeLine_spec (({ s with host := { s.host with lines := r } } : State).advance f) ha l
      refine ⟨_, readLineTo_of_line ha (State.takeLine_direct_cons hm h) f, hacc, hbytes, fun hp => ?_, fun _ => ?_⟩
      · exact absurd (hm.symm.trans hp) (by decide)
      · rw [h]
        rfl
  case pipedWait =>
    rw [readLineTo_of_no_line ha (State.takeLine_piped_nil hm h), State.waitForLine_piped hm hl]
  case directWait =>
    rw [readLineTo_of_no_line ha (State.takeLine_direct_nil hm h), State.waitForLine_direct hm]
  case directNoLine =>
    rw [readLineTo_of_no_line ha (State.takeLine_direct_cons hm h),
      State.waitForLine_direct (s := { s with host := { s.host with lines := r } }) hm]

/-! ### the turns of a waiting core -/

section
variable {s u : State} {pc0 : Word}

theorem step_eq_directStep (hm : s.mode = .direct) (hc : s.host.cancelPending = false) (hs : s.status.ended = false) :
    step s = directStep s := by
  simp [step, boundary, hm, hc, hs]

theorem step_eq_portStep (hm : s.mode = .piped) (hc : s.host.cancelPending = false)
    (ho : s.host.sessionClosed = false) (hs : s.status.ended = false) : step s = portStep s := by
  simp [step, boundary, hm, hc, ho, hs]

theorem directStep_of_key {x : DataReg} (hs : s.status = .waitKey pc0 x) {b : Byte} (h : s.takeKey = (some b, u)) :
    directStep s = .next (u.deliverKey pc0 x b) := by
  simp only [directStep, hs, h]

theorem directStep_of_no_key {x : DataReg} (hs : s.status = .waitKey pc0 x) (h : s.takeKey = (none, u)) :
    directStep s = .next u := by
  simp only [directStep, hs, h]

theorem directStep_of_line {a : Word} {len : Nat} (hs : s.status = .waitStr pc0 a len) {l : List Byte}
    (h : s.takeLine = (some l, u)) : directStep s = .next (u.deliverLine pc0 a len l) := by
  simp only [directStep, hs, h]

theorem directStep_of_no_line {a : Word} {len : Nat} (hs : s.status = .waitStr pc0 a len)
    (h : s.takeLine = (none, u)) : directStep s = .next u := by
  simp only [directStep, hs, h]

theorem portStep_of_frame {f : HostFrame} {r : List Byte} (h : parseFrame s.host.inbox = .frame f r) :
    portStep s = handleFrame f (s.withInbox r) := by
  simp only [portStep, h]
  rfl

theorem portStep_of_incomplete (h : parseFrame s.host.inbox = .incomplete) (ho : s.host.inboxClosed = false) :
    portStep s = .next s := by
  simp [portStep, h, ho]

theorem parseFrame_string {n : Byte} {l : List Byte} (h : l.length = n.toNat) (r : List Byte) :
    parseFrame (0x74 :: n :: (l ++ r)) = .frame (.string l) r := by
  simp [parseFrame, ← h]

theorem handleFrame_key {x : DataReg} (hp : s.proto = .awaitingKey) (hs : s.status = .waitKey pc0 x) (b : Byte) :
    handleFrame (.key b) s = .next (s.deliverKey pc0 x b).checkEnd := by
  simp only [handleFrame, hp, hs]

theorem handleFrame_string {a : Word} {len : Nat} (hp : s.proto = .awaitingString)
    (hs : s.status = .waitStr pc0 a len) (l : List Byte) :
    handleFrame (.string l) s = .next (s.deliverLine pc0 a len l).checkEnd := by
  simp only [handleFrame, hp, hs]

/-- Outside Idle a step command is read and ignored (60_exceptions.md R319). -/
theorem handleFrame_step_of_not_idle (hp : s.proto ≠ .idle) :
    handleFrame .step s = .next s ∧ handleFrame .stepIgnoring s = .next s := by
  simp [handleFrame, hp]

/-! ### a delivery -/

theorem State.resume_direct (hm : s.mode = .direct) (pc : Word) :
    s.resume pc = { s with pc := pc, status := .running } := by
  simp only [State.resume, hm]

theorem State.resume_piped (hm : s.mode = .piped) (pc : Word) :
    s.resume pc = { s with pc := pc, status := .running, proto := .idle } := by
  simp only [State.resume, hm]

theorem State.deliverKey_direct (hm : s.mode = .direct) (pc0 : Word) (x : DataReg) (b : Byte) :
    s.deliverKey pc0 x b = { s.setDr x b with pc := pc0 + 2, status := .running } :=
  State.resume_direct (by rw [State.setDr_mode, hm]) _

/-- After a delivery that leaves instructions to run the core runs again and the port is Idle. -/
theorem State.resume_checkEnd_of_ne (hm : s.mode = .piped) {pc : Word} (h : pc.toNat ≠ s.ops.length) :
    (s.resume pc).checkEnd = { s with pc := pc, status := .running, proto := .idle } := by
  rw [State.resume_piped hm, State.checkEnd, if_neg fun hr => h hr.2]

/-- A delivery to the last instruction of OPS ends the run with an `f` frame (60_exceptions.md R319, log 16). -/
theorem State.resume_checkEnd_of_end (hm : s.mode = .piped) (hl : s.host.sentLeft = none) {pc : Word}
    (h : pc.toNat = s.ops.length) :
    (s.resume pc).checkEnd = { s with
      pc := pc, status := .halted .endOfOps, proto := .halted
      host := { s.host with sent := s.host.sent ++ [.finished] } } := by
  rw [State.checkEnd, if_pos ⟨s.resume_status pc, h⟩, State.halt_piped (s := s.resume pc) hm hl]
  rfl

@[simp] theorem State.checkEnd_acc (s : State) : s.checkEnd.acc = s.acc := by
  obtain ⟨st, p, h, e⟩ := s.checkEnd_eq
  rw [e]

@[simp] theorem State.checkEnd_byte (s : State) (b : Nat) : s.checkEnd.byte b = s.byte b := by
  obtain ⟨st, p, h, e⟩ := s.checkEnd_eq
  rw [e]
  rfl

theorem State.deliverLine_direct (hm : s.mode = .direct) (pc0 a : Word) (len : Nat) (l : List Byte) :
    s.deliverLine pc0 a len l =
      { s.storeLine a l with pc := pc0 + BitVec.ofNat 16 len, status := .running } :=
  State.resume_direct (by rw [State.storeLine_mode, hm]) _

end

/-- The two wait states with the protocol states that go with them in piped mode (60_exceptions.md R318, R319). -/
def State.Awaits (s : State) : Prop :=
  (∃ pc0 x, s.status = .waitKey pc0 x ∧ s.proto = .awaitingKey) ∨
    ∃ pc0 a len, s.status = .waitStr pc0 a len ∧ s.proto = .awaitingString

theorem State.Awaits.not_ended_not_idle {s : State} (h : s.Awaits) : s.status.ended = false ∧ s.proto ≠ .idle := by
  rcases h with ⟨pc0, x, hs, hp⟩ | ⟨pc0, a, len, hs, hp⟩ <;> rw [hs, hp] <;> exact ⟨rfl, by decide⟩

section
variable {s : State} (hc : s.host.cancelPending = false)
include hc

/-! ### a step of a waiting core -/

theorem step_of_waitKey_direct (hm : s.mode = .direct) {pc0 : Word} {x : DataReg} (hs : s.status = .waitKey pc0 x) :
    step s = directStep s :=
  step_eq_directStep hm hc (by rw [hs]; rfl)

theorem step_of_waitStr_direct (hm : s.mode = .direct) {pc0 a : Word} {len : Nat}
    (hs : s.status = .waitStr pc0 a len) : step s = directStep s :=
  step_eq_directStep hm hc (by rw [hs]; rfl)

/-- The step that reads a key's frame completes the waiting RCHR and makes the end-of-ops check. -/
theorem step_of_key_frame (hm : s.mode = .piped) (ho : s.host.sessionClosed = false) {pc0 : Word} {x : DataReg}
    (hs : s.status = .waitKey pc0 x) (hp : s.proto = .awaitingKey) {b : Byte} {r : List Byte}
    (hin : s.host.inbox = 0x6B :: b :: r) : step s = .next ((s.withInbox r).deliverKey pc0 x b).checkEnd := by
  have hparse : parseFrame s.host.inbox = .frame (.key b) r := by rw [hin]; rfl
  rw [step_eq_portStep hm hc ho (by rw [hs]; rfl), portStep_of_frame hparse]
  exact handleFrame_key (s := s.withInbox r) hp hs b

/-- The step that reads a line's frame completes the waiting RSTR and makes the end-of-ops check. -/
theorem step_of_string_frame (hm : s.mode = .piped) (ho : s.host.sessionClosed = false) {pc0 a : Word} {len : Nat}
    (hs : s.status = .waitStr pc0 a len) (hp : s.proto = .awaitingString) {n : Byte} {l r : List Byte}
    (hin : s.host.inbox = 0x74 :: n :: (l ++ r)) (hl : l.length = n.toNat) :
    step s = .next ((s.withInbox r).deliverLine pc0 a len l).checkEnd := by
  have hparse : parseFrame s.host.inbox = .frame (.string l) r := by rw [hin, parseFrame_string hl]
  rw [step_eq_portStep hm hc ho (by rw [hs]; rfl), portStep_of_frame hparse]
  exact handleFrame_string (s := s.withInbox r) hp hs l

/-- A waiting core reads a step command and ignores it. -/
theorem step_of_ignored_frame (hm : s.mode = .piped) (ho : s.host.sessionClosed = false) (hw : s.Awaits)
    {r : List Byte} (hin : s.host.inbox = 0x65 :: r ∨ s.host.inbox = 0x66 :: r) :
    step s = .next (s.withInbox r) := by
  obtain ⟨hs, hp⟩ := hw.not_ended_not_idle
  obtain ⟨hstep, hignoring⟩ := handleFrame_step_of_not_idle (s := s.withInbox r) hp
  rw [step_eq_portStep hm hc ho hs]
  rcases hin with hin | hin
  · exact (portStep_of_frame (f := .step) (by rw [hin]; rfl)).trans hstep
  · exact (portStep_of_frame (f := .stepIgnoring) (by rw [hin]; rfl)).trans hignoring

end

/-- Settles O45: a delivery is `State.deliverKey` or `State.deliverLine`, after which piped mode makes the end-of-ops
check; any other turn of a waiting core answers the state with the host's side it has read. -/
theorem waitsEndWithDelivery : Obligations.WaitsEndWithDelivery := by
  unfold Obligations.WaitsEndWithDelivery
  intro s hc
  refine ⟨fun pc0 x b r hm hs h => ?directKey, fun pc0 x hm hs h => ?directKeysEnd,
    fun pc0 x b r hm ho hs hp hin => ?pipedKey, fun pc0 a len l r hm hs h ha => ?directLine,
    fun pc0 a len n l r hm ho hs hp hin hl ha => ?pipedLine, fun pc0 x r hm hs h => ?directNoKey,
    fun pc0 a len hm hs => ⟨fun h => ?directLinesEnd, fun r h => ?directNoLine⟩,
    fun hm ho hw => ⟨fun r hin => ?ignored, fun hin hopen => ?incomplete⟩⟩
  case directKey =>
    rw [step_of_waitKey_direct hc hm hs, directStep_of_key hs (State.takeKey_direct_cons hm h),
      State.deliverKey_direct (s := { s with host := { s.host with keys := r } }) hm, s.setDr_withHost]
  case directKeysEnd =>
    rw [step_of_waitKey_direct hc hm hs, directStep_of_no_key hs (State.takeKey_direct_nil hm h)]
  case directNoKey =>
    rw [step_of_waitKey_direct hc hm hs, directStep_of_no_key hs (State.takeKey_direct_cons hm h)]
  case directLinesEnd =>
    rw [step_of_waitStr_direct hc hm hs, directStep_of_no_line hs (State.takeLine_direct_nil hm h)]
  case directNoLine =>
    rw [step_of_waitStr_direct hc hm hs, directStep_of_no_line hs (State.takeLine_direct_cons hm h)]
  case ignored => exact step_of_ignored_frame hc hm ho hw hin
  case incomplete =>
    rw [step_eq_portStep hm hc ho (State.Awaits.not_ended_not_idle hw).1, portStep_of_incomplete hin hopen]
  case pipedKey =>
    have hset : (s.withInbox r).setDr x b = { s.setDr x b with host := { s.host with inbox := r } } :=
      s.setDr_withHost _ x b
    have hmode : ((s.withInbox r).setDr x b).mode = .piped := by rw [State.setDr_mode]; exact hm
    have hops : ((s.withInbox r).setDr x b).ops = s.ops := State.setDr_ops ..
    have hlink : ((s.withInbox r).setDr x b).host.sentLeft = s.host.sentLeft := by rw [hset]
    rw [step_of_key_frame hc hm ho hs hp hin, State.deliverKey]
    refine ⟨fun hne => ?_, fun heq hl => ?_⟩
    · rw [State.resume_checkEnd_of_ne hmode (hops ▸ hne), hset]
    · rw [State.resume_checkEnd_of_end hmode (hlink.trans hl) (hops ▸ heq), hset]
  case directLine =>
    obtain ⟨hacc, hbytes⟩ := State.storeLine_spec { s with host := { s.host with lines := r } } ha l
    refine ⟨_, (step_of_waitStr_direct hc hm hs).trans (directStep_of_line hs (State.takeLine_direct_cons hm h)),
      hacc, hbytes, ?_⟩
    rw [State.deliverLine_direct (s := { s with host := { s.host with lines := r } }) hm]
    rfl
  case pipedLine =>
    obtain ⟨hacc, hbytes⟩ := (s.withInbox r).storeLine_spec ha l
    have hcut : min l.length 255 = l.length := by
      have := n.isLt
      omega
    rw [hcut] at hacc hbytes
    have hmode : ((s.withInbox r).storeLine a l).mode = .piped := hm
    refine ⟨_, step_of_string_frame hc hm ho hs hp hin hl, ?_, fun b => ?_, fun hne => ?_, fun heq hlink => ?_⟩
    · rw [State.checkEnd_acc]
      exact BitVec.eq_of_toNat_eq (hacc.trans hl)
    · rw [State.checkEnd_byte]
      exact hbytes b
    · rw [State.deliverLine, State.resume_checkEnd_of_ne hmode hne]
      rfl
    · rw [State.deliverLine, State.resume_checkEnd_of_end hmode hlink heq]
      rfl

/-! ### miscellany -/

section
variable {s : State}

theorem execTime_of_readClock {c : ClockReading} {u : State} (h : s.readClock = (c, u)) :
    execTime s = .next { u.advance .bare with d0 := c.seconds, d1 := c.minutes, d2 := c.hours } := by
  simp only [execTime, h]

theorem State.readClock_cons {c : ClockReading} {r : List ClockReading} (h : s.host.clocks = c :: r) :
    s.readClock = (c, { s with host := { s.host with clocks := r } }) := by
  simp only [State.readClock, h]

theorem State.readClock_nil (h : s.host.clocks = []) :
    ∃ c, s.readClock = (c, { s with host := { s.host with draws := s.host.draws + 1 } }) := by
  simp only [State.readClock, h]
  exact ⟨_, rfl⟩

end

/-- Settles O46: HALT is `State.halt` past the instruction, TIME takes what `State.readClock` answers. -/
theorem miscellaneousResults : Obligations.MiscellaneousResults := by
  unfold Obligations.MiscellaneousResults
  intro s x
  refine ⟨rfl, fun hm => ?haltDirect, fun hm hl => ?haltPiped, fun b p h => ?rand, ⟨_, rfl⟩, fun c r h => ?timeListed,
    fun h => ?timeFree⟩
  case haltDirect => exact congrArg _ (State.halt_direct (s := s.advance .bare) hm .haltInstr)
  case haltPiped => exact congrArg _ (State.halt_piped (s := s.advance .bare) hm hl .haltInstr)
  case rand =>
    have hexec : exec (.randR x) s = execRandR x s := rfl
    rw [hexec, execRandR, h, State.advance_setDr]
    rfl
  case timeListed => exact execTime_of_readClock (State.readClock_cons h)
  case timeFree =>
    obtain ⟨c, hclock⟩ := State.readClock_nil h
    exact ⟨c, execTime_of_readClock hclock⟩

/-- SEED sets the generator from the seed byte alone (47_input_misc.md R279). -/
theorem exec_seedR_spec (s : State) (x : DataReg) :
    ∃ t, exec (.seedR x) s = .next t ∧ t.prng = Config.seedExtend (s.dr x) :=
  ⟨_, rfl, rfl⟩

/-- RAND gives the generator's next byte and leaves its next state (47_input_misc.md R278). -/
theorem exec_randR_spec (s : State) (x : DataReg) :
    ∃ t, exec (.randR x) s = .next t ∧ (t.dr x, t.prng) = Config.prngNext s.prng := by
  refine ⟨_, rfl, ?_⟩
  have hdr := (s.advance .r).setDr_dr_same x (Config.prngNext s.prng).1
  cases x <;> exact congrArg (·, _) hdr

/-- Settles O47: both seeded states have the generator of one seed byte (`exec_seedR_spec`), and RAND reads the
generator alone (`exec_randR_spec`). -/
theorem seedFixesRandom : Obligations.SeedFixesRandom := by
  unfold Obligations.SeedFixesRandom
  intro s s' x x' y y' hseed
  obtain ⟨t, ht, hprng⟩ := exec_seedR_spec s x
  obtain ⟨t', ht', hprng'⟩ := exec_seedR_spec s' x'
  obtain ⟨u, hu, hnext⟩ := exec_randR_spec t y
  obtain ⟨u', hu', hnext'⟩ := exec_randR_spec t' y'
  have hsame : (u.dr y, u.prng) = (u'.dr y', u'.prng) := by rw [hnext, hnext', hprng, hprng', hseed]
  obtain ⟨hbyte, hgenerator⟩ := Prod.mk.inj hsame
  exact ⟨t, t', u, u', ht, ht', hu, hu', hbyte, hgenerator⟩

end Sys2Proof.Machine
end

section
/-! SUPPORT. The frames of the piped protocol (60_exceptions.md R320, R321, R323): a host's frame and its bytes, how
bytes are cut into frames, and what the frames of a running session carry. -/
namespace Sys2Proof.Machine

/-! ### the host's frames -/

/-- Settles O6: the first byte selects the frame, its 16-bit fields join again (`be16_parts`), and a string is as long
as its count byte says (`parseFrame_string`). -/
theorem hostFramesRoundTrip : Obligations.HostFramesRoundTrip := by
  unfold Obligations.HostFramesRoundTrip
  intro f rest hfits
  cases f with
  | step | stepIgnoring | requestDump | key => rfl
  | setBreakpoint | clearBreakpoint | requestMemory => simp [HostFrame.wire, parseFrame]
  | string bs =>
    have hle : bs.length ≤ 255 := hfits bs rfl
    have hcount : bs.length = (BitVec.ofNat 8 bs.length).toNat := by
      rw [BitVec.toNat_ofNat]
      omega
    rw [HostFrame.wire, List.take_of_length_le hle]
    exact parseFrame_string hcount rest

/-! ### bytes cut into frames -/

theorem chunks_flatten {fuel : Nat} {bs : List Byte} (h : bs.length ≤ fuel) : (chunks fuel bs).flatten = bs := by
  induction fuel generalizing bs with
  | zero => rw [List.eq_nil_of_length_eq_zero (Nat.le_zero.1 h), chunks, List.flatten_nil]
  | succ fuel ih =>
    cases bs with
    | nil => rfl
    | cons b bs =>
      have hrest : ((b :: bs).drop Config.frameMax).length ≤ fuel := by
        rw [List.length_drop, Config.frameMax]
        omega
      rw [chunks, List.flatten_cons, ih hrest, List.take_append_drop]

theorem length_of_mem_chunks {fuel : Nat} {bs p : List Byte} (h : p ∈ chunks fuel bs) :
    1 ≤ p.length ∧ p.length ≤ 255 := by
  induction fuel generalizing bs with
  | zero => cases h
  | succ fuel ih =>
    cases bs with
    | nil => cases h
    | cons b bs =>
      rw [chunks, List.mem_cons] at h
      rcases h with rfl | h
      · rw [List.length_take, List.length_cons, Config.frameMax]
        omega
      · exact ih h

theorem payloads_flatten (bs : List Byte) : (payloads bs).flatten = bs := chunks_flatten le_rfl

/-- Bytes that one frame carries go out in one, and no bytes in none (60_exceptions.md R321, log 15). -/
theorem payloads_of_length_le {bs : List Byte} (h : bs.length ≤ 255) :
    payloads bs = if bs = [] then [] else [bs] := by
  cases bs with
  | nil => rfl
  | cons b bs =>
    have htake : (b :: bs).take Config.frameMax = b :: bs := List.take_of_length_le h
    have hdrop : (b :: bs).drop Config.frameMax = [] := List.drop_eq_nil_of_le h
    have hend : chunks bs.length [] = [] := by cases bs <;> rfl
    rw [if_neg (List.cons_ne_nil b bs), payloads, List.length_cons, chunks, htake, hdrop, hend]

/-! ### output -/

theorem decimal_length_le (v : Byte) : (decimal v).length ≤ 3 := by
  unfold decimal
  dsimp only
  split_ifs <;> simp

/-- The bytes of one instruction fit one frame: a numeral, a byte, or as many as a byte counts. -/
theorem State.Prints.length_le {s : State} {i : Instr} {bs : List Byte} {len : Nat} (h : s.Prints i bs len) :
    bs.length ≤ 255 := by
  have hacc : s.acc.toNat ≤ 255 := Nat.le_of_lt_succ s.acc.isLt
  rcases h with ⟨x, -, rfl, -⟩ | ⟨n, -, rfl, -⟩ | ⟨x, -, rfl, -⟩ | ⟨n, -, rfl, -⟩ | ⟨x, n, -, -, -, rfl, -⟩ |
    ⟨-, rfl, -⟩ | ⟨x, -, -, -, rfl, -⟩ | ⟨x, -, -, -, rfl, -⟩
  · exact (decimal_length_le _).trans (by decide)
  · exact (decimal_length_le n).trans (by decide)
  · simp
  · simp
  · exact (List.length_take_le _ _).trans (Nat.le_of_lt_succ n.isLt)
  · simp
  · exact (List.length_take_le _ _).trans hacc
  · rwa [List.length_map, List.length_range]

theorem printBytes_piped {s : State} (hm : s.mode = .piped) (hl : s.host.sentLeft = none) (bs : List Byte)
    (f : Format) :
    printBytes bs f s = .next { s with
      pc := s.pc + BitVec.ofNat 16 f.length
      host := { s.host with sent := s.host.sent ++ (payloads bs).map .stdout } } := by
  simp only [printBytes, hm, State.emitAll_sent s _ hl]
  rfl

/-- Settles O32: the instruction is its `printBytes` (`State.Prints.exec_eq`), and its bytes fit one frame. -/
theorem printInPipedMode : Obligations.PrintInPipedMode := by
  unfold Obligations.PrintInPipedMode
  intro s i bs len hprints hm hl
  obtain ⟨f, rfl, hexec⟩ := hprints.exec_eq
  rw [hexec, printBytes_piped hm hl, payloads_of_length_le hprints.length_le]
  by_cases hbs : bs = []
  · rw [if_pos hbs, if_pos hbs, List.map_nil]
  · rw [if_neg hbs, if_neg hbs, List.map_singleton]

/-! ### requests for the state -/

theorem Memory.readBytes_getElem? (m : Memory) (a : Nat) {n k : Nat} (h : k < n) :
    (m.readBytes a n)[k]? = some (m.read (a + k)) := by
  rw [Memory.readBytes, List.getElem?_map, List.getElem?_range h, Option.map_some]

theorem handleFrame_requestMemory {s : State} {lo hi : Word} (h : lo.toNat ≤ hi.toNat) (hhi : hi.toNat ≤ 0xFFFE)
    (hl : s.host.sentLeft = none) :
    handleFrame (.requestMemory lo hi) s = .next { s with
      host := { s.host with sent := s.host.sent ++ memoryFrames s.mem lo hi } } := by
  rw [handleFrame, if_pos ⟨h, Nat.lt_succ_of_le hhi⟩, State.emitAll_sent s _ hl]

/-- Settles O57: the frames are the bytes of MEM cut by `payloads`, which loses none of them; the dump is
`State.dump_eq`'s. -/
theorem memoryRequestReplies : Obligations.MemoryRequestReplies := by
  unfold Obligations.MemoryRequestReplies
  refine ⟨fun s lo hi h hhi hl => ?memory, fun s hl => ?dump⟩
  case memory =>
    have hcount : hi.toNat + 1 - lo.toNat = hi.toNat - lo.toNat + 1 := Nat.succ_sub h
    refine ⟨payloads (s.mem.readBytes lo.toNat (hi.toNat + 1 - lo.toNat)), handleFrame_requestMemory h hhi hl,
      fun p hp => length_of_mem_chunks hp, ?_, fun k hk => ?_⟩
    · rw [payloads_flatten, Memory.readBytes_length, hcount]
    · rw [payloads_flatten, hcount]
      exact s.mem.readBytes_getElem? lo.toNat hk
  case dump =>
    have hdump : handleFrame .requestDump s = .next (s.emit (.dump s.dump)) := rfl
    rw [hdump, State.emit_sent s _ hl, State.dump_eq]
    rfl

end Sys2Proof.Machine
end

section
/-! SUPPORT. Accesses outside their space (60_exceptions.md R301, R307; 20_memory.md R53): a range check that fails
takes its trap in the state the instruction began in. -/
namespace Sys2Proof.Machine

theorem require_of_outside {a n size : Nat} (h : size ≤ a ∨ size < a + n) (s : State) (k : TrapKind)
    (rest : StepResult) : require (rangeOk a n size) k s rest = .next (s.takeTrap k) := by
  have hbad : rangeOk a n size = false := by
    rw [← Bool.not_eq_true, rangeOk_iff]
    omega
  rw [hbad, require_false]

/-- PRTS of a string that is not all inside STR fails the check of its length byte or that of its bytes
(45_print.md R236). -/
theorem exec_prtsS_of_outside {s : State} {x : StringId}
    (h : s.str.length ≤ x.toNat ∨
      ((byteAt s.str x.toNat).toNat ≠ 0 ∧ s.str.length < x.toNat + 1 + (byteAt s.str x.toNat).toNat)) :
    exec (.prtsS x) s = .next (s.takeTrap .stringOutOfRange) := by
  have hexec : exec (.prtsS x) s = execPrtsS x s := rfl
  rw [hexec, execPrtsS]
  by_cases hlen : s.str.length ≤ x.toNat
  · exact require_of_outside (.inl hlen) s _ _
  · obtain ⟨hn, hout⟩ := h.resolve_left hlen
    have hx : x.toNat < s.str.length := Nat.not_le.1 hlen
    rw [require_rangeOk hx hx, beq_false_of_ne hn, Bool.false_or, require_of_outside (.inr hout)]

/-- Settles O35, by `require_of_outside` for the check of each shape. -/
theorem rangeTraps : Obligations.RangeTraps := by
  unfold Obligations.RangeTraps
  intro s x a b f n w sid outData outMem outside
  have trap {addr count size : Nat} (h : outside addr count size) (k : TrapKind) (rest : StepResult) :
      require (rangeOk addr count size) k s rest = .next (s.takeTrap k) := require_of_outside h s k rest
  have trapAt {v : Word} (h : v = 0xFFFF) (rest : StepResult) :
      require (rangeOk v.toNat 1 Config.memSize) .memOutOfRange s rest = outMem :=
    trap (.inl (by rw [h]; exact le_rfl)) _ rest
  refine ⟨fun h => ⟨trap (.inl h) _ _, trap (.inl h) _ _, trap (.inl h) _ _, trap (.inl h) _ _⟩,
    fun h => ⟨trapAt h _, trapAt h _⟩, fun h => ⟨trapAt h _, trapAt h _⟩,
    fun h => ⟨trap h _ _, trap h _ _⟩, fun hsource htarget => ?memc,
    fun h => ⟨trap h _ _, trap h _ _, trap h _ _⟩, fun h => ⟨trap h _ _, trap h _ _⟩,
    fun h => trap (.inr h) _ _, fun h => trap (.inr h) _ _,
    fun h => trap (.inl h) _ _, fun h => trap (.inr h) _ _, exec_prtsS_of_outside⟩
  case memc =>
    obtain ⟨hstart, hend⟩ := not_or.1 hsource
    exact (require_rangeOk (Nat.not_le.1 hstart) (Nat.not_lt.1 hend) s .dataOutOfRange _).trans (trap htarget _ _)

end Sys2Proof.Machine
end

section
/-! SUPPORT. Traps are precise (60_exceptions.md R301 to R305): an instruction that traps takes the trap of the state it
began in, but for output that breaks, and the entry of a trap sends its report and changes no more. -/
namespace Sys2Proof.Machine

/-! ### how an instruction can trap -/

/-- An instruction begun in `s` has not trapped, has taken a trap of `s` itself, or has sent bytes on a channel that
broke. -/
inductive TrapsCleanly (i : Instr) (s : State) : State → Prop
  | goes {t} (h : ∀ k, t.status ≠ .crashed k) : TrapsCleanly i s t
  | trap {k} (hk : k ≠ .ioBroken) : TrapsCleanly i s (s.takeTrap k)
  | broken (hm : s.mode = .direct) (hi : sendsOutput i = true) (g : HostSide) :
      TrapsCleanly i s (({ s with host := g } : State).takeTrap .ioBroken)

/-- The answer is one of a clean trap or of none. -/
def Precise (i : Instr) (s : State) (r : StepResult) : Prop := ∀ t, r = .next t → TrapsCleanly i s t

section
variable {i : Instr} {s t : State}

theorem TrapsCleanly.precise (h : TrapsCleanly i s t) : Precise i s (.next t) :=
  fun _ e => Host.Outcome.next.inj e ▸ h

theorem require_precise {c : Bool} {k : TrapKind} (hk : k ≠ .ioBroken) {rest : StepResult}
    (h : Precise i s rest) : Precise i s (require c k s rest) := by
  cases c with
  | true => exact h
  | false => exact (TrapsCleanly.trap hk).precise

/-- The traps of LD and LEN are those of their ranges and indexes. -/
theorem TrapsCleanly.of_packed {k : TrapKind} (h : k = .badLdIndex ∨ k = .dataOutOfRange) :
    TrapsCleanly i s (s.takeTrap k) := by
  rcases h with rfl | rfl <;> exact .trap (by decide)

variable (hs : s.status = .running)
include hs

theorem TrapsCleanly.of_status_eq (h : t.status = s.status) : TrapsCleanly i s t :=
  .goes fun k e => by simp [h, hs] at e

/-- An instruction that leaves the status as it was has not trapped. -/
theorem next_precise (h : t.status = s.status) : Precise i s (.next t) := (TrapsCleanly.of_status_eq hs h).precise

theorem printBytes_precise (hi : sendsOutput i = true) (bs : List Byte) (f : Format) :
    Precise i s (printBytes bs f s) := by
  intro t e
  rcases printBytes_next bs f e with ⟨g, rfl⟩ | ⟨hm, g, rfl⟩
  · exact .of_status_eq hs rfl
  · exact .broken hm hi g

theorem printDump_precise (hi : sendsOutput i = true) (f : Format) : Precise i s (printDump f s) := by
  intro t e
  rcases printDump_next f e with ⟨g, rfl⟩ | ⟨hm, g, rfl⟩
  · exact .of_status_eq hs rfl
  · exact .broken hm hi g

theorem loadOffset_precise (x : AddrReg) (f : Format) (id o j : Nat) :
    Precise i s (loadOffset x f (ldOffset s.data id o j) s) := by
  intro t e
  rcases loadOffset_next x f _ e with ⟨a, -, rfl⟩ | ⟨k, hk, rfl⟩
  · exact .of_status_eq hs (by simp)
  · exact .of_packed (ldOffset_error o j hk)

theorem loadLength_precise (f : Format) (id o : Nat) : Precise i s (loadLength f (lenValue s.data id o) s) := by
  intro t e
  rcases loadLength_next f _ e with ⟨v, -, rfl⟩ | ⟨k, hk, rfl⟩
  · exact .of_status_eq hs (by simp)
  · exact .of_packed (lenValue_error o hk)

theorem callTo_precise (target : Word) (f : Format) : Precise i s (callTo target f s) :=
  require_precise (by decide) (next_precise hs rfl)

theorem pollTo_precise (target : Word) (f : Format) : Precise i s (pollTo target f s) := by
  intro t e
  obtain ⟨ready, g, rfl⟩ := pollTo_next target f e
  exact .of_status_eq hs rfl

/-- A wait is no trap. -/
theorem readLineTo_precise (a : Word) (f : Format) : Precise i s (readLineTo a f s) := by
  intro t e
  rcases readLineTo_next a f e with rfl | ⟨-, ⟨l, q, g, rfl⟩ | ⟨q, p, g, rfl⟩⟩
  · exact .trap (by decide)
  · exact .of_status_eq hs rfl
  · exact .goes fun _ => nofun

theorem fileReadTo_precise (f : Byte) (a : Nat) (fmt : Format) : Precise i s (fileReadTo f a fmt s) := by
  intro t e
  rcases fileReadTo_next f a fmt e with ⟨-, rfl⟩ | ⟨-, bs, v, hs', g, -, rfl⟩
  · exact .trap (by decide)
  · exact .of_status_eq hs rfl

theorem fileWriteBytes_precise (f : Byte) (bs : List Byte) (fmt : Format) :
    Precise i s (fileWriteBytes f bs fmt s) := by
  intro t e
  obtain ⟨v, hs', g, rfl⟩ := fileWriteBytes_next f bs fmt e
  exact .of_status_eq hs rfl

theorem fileWriteFrom_precise (f : Byte) (a : Nat) (fmt : Format) : Precise i s (fileWriteFrom f a fmt s) :=
  require_precise (by decide) (fileWriteBytes_precise hs f _ fmt)

theorem fileBranch_precise (f : Byte) (target : Word) (fmt : Format) : Precise i s (fileBranch f target fmt s) := by
  intro t e
  obtain ⟨ok, hs', g, rfl⟩ := fileBranch_next f target fmt e
  exact .of_status_eq hs rfl

theorem execFopenN_precise (x : Num) : Precise i s (execFopenN x s) := by
  have hst := s.avail_status x
  unfold execFopenN
  split <;> rename_i heq <;> rw [heq] at hst <;> exact next_precise hs hst

theorem execFskipNR_precise (x : Num) (y : DataReg) : Precise i s (execFskipNR x y s) := by
  have hst := s.avail_status x
  unfold execFskipNR
  split <;> rename_i heq <;> rw [heq] at hst <;> exact next_precise hs hst

theorem execFseekN_precise (x : Num) : Precise i s (execFseekN x s) := by
  have hst := s.avail_status x
  unfold execFseekN
  split <;> rename_i heq <;> rw [heq] at hst <;> exact next_precise hs hst

theorem execRchrR_precise (x : DataReg) : Precise i s (execRchrR x s) := by
  have hst := s.takeKey_status
  unfold execRchrR
  split <;> rename_i heq <;> rw [heq] at hst
  · exact next_precise hs (by simpa using hst)
  · exact (TrapsCleanly.goes fun k => by simp).precise

/-- No instruction traps but in the state it began in, or by output that breaks, by the shared operation it ends in. -/
theorem exec_precise (i : Instr) : Precise i s (exec i s) := by
  cases i with
  | addRR | addRN | subRR | subRN | incR | decR
  | jmpW | jmpA | jeW | jeA | jneW | jneA | jlW | jlA | jgW | jgA | overW | overA | noverW | noverA
  | nop | seedR => exact next_precise hs rfl
  | incA | decA | andRR | andRN | orRR | orRN | xorRR | xorRN | notR | cmpRR | cmpRN | cmpAA
  | cpyRR | cpyRN | cpyAA | cpyAW | cpyARR | cpyRRA | swpRR | swpAA | randR => exact next_precise hs (by simp)
  | addRA | subRA | memwW | memwA | ret | pushR | pushN | pushA =>
    exact require_precise (by decide) (next_precise hs rfl)
  | cpyRA | cmpRA | memrW | memrA | popR | popA | argRN | argAN =>
    exact require_precise (by decide) (next_precise hs (by simp))
  | memcAA => exact require_precise (by decide) (require_precise (by decide) (next_precise hs rfl))
  | ldATNN | ldATRR => exact loadOffset_precise hs _ _ _ _ _
  | lenTN | lenTR => exact loadLength_precise hs _ _ _
  | callW | callA => exact callTo_precise hs _ _
  | prtR | prtN | prtcR | prtcN | prtln => exact printBytes_precise hs rfl _ _
  | prtsS => exact require_precise (by decide) (require_precise (by decide) (printBytes_precise hs rfl _ _))
  | prtdA | mempA => exact require_precise (by decide) (printBytes_precise hs rfl _ _)
  | debug => exact printDump_precise hs rfl _
  | fopenN x => exact execFopenN_precise hs x
  | filerNW | filerNA => exact fileReadTo_precise hs _ _ _
  | filewNW | filewNA => exact fileWriteFrom_precise hs _ _ _
  | filewNR | filewNN => exact fileWriteBytes_precise hs _ _ _
  | fskipNR x y => exact execFskipNR_precise hs x y
  | fseekN x => exact execFseekN_precise hs x
  | fchkNW | fchkNA => exact fileBranch_precise hs _ _ _
  | ipollW | ipollA => exact pollTo_precise hs _ _
  | rchrR x => exact execRchrR_precise hs x
  | rstrW | rstrA => exact readLineTo_precise hs _ _
  | halt => exact (TrapsCleanly.goes fun k => by simp).precise
  | time => exact next_precise hs s.readClock_status

end

/-- Settles O49: how the instruction can have trapped (`exec_precise`), and what a trap changes
(`State.takeTrap_eq`). -/
theorem trapsArePrecise : Obligations.TrapsArePrecise := by
  unfold Obligations.TrapsArePrecise
  intro i s t k hs hexec hk
  cases exec_precise hs i t hexec with
  | goes h => exact absurd hk (h k)
  | @trap k' hne =>
    obtain rfl : k' = k := by simpa using hk
    obtain ⟨p, g, e⟩ := s.takeTrap_eq k'
    exact ⟨by rw [e], fun _ => rfl, fun h => absurd h hne⟩
  | broken hm hi g =>
    obtain rfl : TrapKind.ioBroken = k := by simpa using hk
    obtain ⟨p, g', e⟩ := State.takeTrap_eq { s with host := g } .ioBroken
    exact ⟨by rw [e], fun h => absurd rfl h, fun _ => ⟨hm, hi⟩⟩

/-! ### trap entry -/

theorem crashReport_eq (k : TrapKind) (dump : List Byte) :
    crashReport k dump = Config.crashTag k.code ++ 0x0A :: Config.dumpText dump :=
  List.append_assoc _ _ _

theorem State.takeTrap_direct {s : State} (hm : s.mode = .direct) (k : TrapKind) :
    s.takeTrap k = { s with
      status := .crashed k, host := { s.host with stderr := (s.host.stderr.send (crashReport k s.dump)).1 } } := by
  simp only [State.takeTrap, hm]

/-- Settles O50: in direct mode stderr takes the whole report, in piped mode the link takes the frame. -/
theorem trapEntry : Obligations.TrapEntry := by
  unfold Obligations.TrapEntry
  intro s k
  refine ⟨fun hm => ?_, fun hm hl => State.takeTrap_piped hm hl k⟩
  intro report htakes
  have hreport : crashReport k s.dump = report := crashReport_eq k s.dump
  rw [State.takeTrap_direct hm, hreport, OutChannel.send_of_takes htakes]
  exact ⟨rfl, rfl⟩

end Sys2Proof.Machine
end

section
/-! SUPPORT. The debug port and the ends of a run (60_exceptions.md R306, R308, R319, R320, R322, R327): what a frame
does where no instruction is to run, and which frames end a session. -/
namespace Sys2Proof.Machine

/-! ### breakpoints -/

theorem mem_addBreakpoint (bps : List Word) (pc q : Word) : q ∈ addBreakpoint bps pc ↔ q = pc ∨ q ∈ bps := by
  unfold addBreakpoint
  split
  case isTrue h => exact ⟨.inr, fun hq => hq.elim (fun e => e ▸ h) id⟩
  case isFalse => exact List.mem_cons

theorem mem_removeBreakpoint (bps : List Word) (pc q : Word) :
    q ∈ removeBreakpoint bps pc ↔ q ≠ pc ∧ q ∈ bps := by
  rw [removeBreakpoint, List.mem_filter, decide_eq_true_eq, and_comm]

theorem addBreakpoint_idem (bps : List Word) (pc : Word) :
    addBreakpoint (addBreakpoint bps pc) pc = addBreakpoint bps pc :=
  if_pos ((mem_addBreakpoint bps pc pc).2 (.inl rfl))

theorem removeBreakpoint_idem (bps : List Word) (pc : Word) :
    removeBreakpoint (removeBreakpoint bps pc) pc = removeBreakpoint bps pc := by
  simp only [removeBreakpoint, List.filter_filter, Bool.and_self]

section
variable {s : State}

/-! ### frames -/

/-- An ended run still has its session's frames handled (60_exceptions.md R327). -/
theorem step_eq_portStep_of_ended (hm : s.mode = .piped) (ho : s.host.sessionClosed = false)
    (hs : s.status.ended = true) : step s = portStep s := by
  simp [step, boundary, hm, ho, hs]

theorem step_of_frame (hm : s.mode = .piped) (ho : s.host.sessionClosed = false)
    (hc : s.status.ended = true ∨ s.host.cancelPending = false) {f : HostFrame} {r : List Byte}
    (hin : parseFrame s.host.inbox = .frame f r) : step s = handleFrame f (s.withInbox r) := by
  rw [← portStep_of_frame hin]
  cases hs : s.status.ended with
  | true => exact step_eq_portStep_of_ended hm ho hs
  | false => exact step_eq_portStep hm (hc.resolve_left (by simp [hs])) ho hs

theorem handleFrame_step_of_breakpoint (hp : s.proto = .idle) (hs : s.status = .running)
    (hbp : s.pc ∈ s.breakpoints) : handleFrame .step s = .next (s.emit (.breakpoint s.pc)) := by
  rw [handleFrame, if_pos ⟨hp, hs⟩, if_pos hbp]

theorem handleFrame_key_of_not_awaiting (hp : s.proto ≠ .awaitingKey) (b : Byte) :
    handleFrame (.key b) s = .next { s with keybuf := s.keybuf ++ [b] } := by
  unfold handleFrame
  dsimp only
  split
  case h_1 hp' _ => exact absurd hp' hp
  case h_2 => rfl

theorem handleFrame_string_of_not_awaiting (hp : s.proto ≠ .awaitingString) (l : List Byte) :
    handleFrame (.string l) s = .next { s with strbuf := s.strbuf ++ [l] } := by
  unfold handleFrame
  dsimp only
  split
  case h_1 hp' _ => exact absurd hp' hp
  case h_2 => rfl

/-- A request for memory outside MEM, or of no memory, is a protocol error (60_exceptions.md R320, R323). -/
theorem handleFrame_requestMemory_of_bad {lo hi : Word} (h : hi.toNat < lo.toNat ∨ 0xFFFE < hi.toNat) :
    handleFrame (.requestMemory lo hi) s = .next s.closeSession := by
  rw [handleFrame, if_neg]
  rw [Config.memSize]
  omega

end

/-- Settles O56, by the outcome of each frame. -/
theorem breakpointsStopSteps : Obligations.BreakpointsStopSteps := by
  unfold Obligations.BreakpointsStopSteps
  intro s pc
  refine ⟨fun f r hm ho hc hin => step_of_frame hm ho hc hin, ?set, ?clear, fun hp hs hbp hl => ?report,
    handleFrame_step_of_not_idle, handleFrame_key_of_not_awaiting, handleFrame_string_of_not_awaiting⟩
  case set =>
    have hagain : handleFrame (.setBreakpoint pc) { s with breakpoints := addBreakpoint s.breakpoints pc } =
        .next { s with breakpoints := addBreakpoint s.breakpoints pc } := by
      rw [handleFrame, addBreakpoint_idem]
    exact ⟨_, rfl, mem_addBreakpoint s.breakpoints pc, rfl, hagain⟩
  case clear =>
    have hagain : handleFrame (.clearBreakpoint pc) { s with breakpoints := removeBreakpoint s.breakpoints pc } =
        .next { s with breakpoints := removeBreakpoint s.breakpoints pc } := by
      rw [handleFrame, removeBreakpoint_idem]
    exact ⟨_, rfl, mem_removeBreakpoint s.breakpoints pc, rfl, hagain⟩
  case report => rw [handleFrame_step_of_breakpoint hp hs hbp, State.emit_sent s _ hl]

/-! ### ended runs -/

/-- `t` is `s` but for breakpoints, the input buffers and the host's side. -/
def State.OnlyPort (s t : State) : Prop :=
  t = { s with breakpoints := t.breakpoints, keybuf := t.keybuf, strbuf := t.strbuf, host := t.host }

section
variable {s t : State}

theorem State.onlyPort_emitAll (s : State) (fs : List DeviceFrame) : s.OnlyPort (s.emitAll fs) := by
  obtain ⟨g, e⟩ := s.emitAll_eq fs
  rw [e]
  rfl

theorem State.closeSession_of_ended (h : s.status.ended = true) :
    s.closeSession = { s with host := { s.host with sessionClosed := true } } := by
  simp only [State.closeSession, if_pos h]

theorem State.closeSession_of_not_ended (h : s.status.ended = false) :
    s.closeSession = { s with status := .cancelled, host := { s.host with sessionClosed := true } } := by
  simp [State.closeSession, h]

/-- No frame runs or resumes an ended run: step commands are ignored, keys and lines queued (60_exceptions.md R319,
R327). -/
theorem onlyPort_of_handleFrame (hs : s.status.ended = true) (f : HostFrame) (e : handleFrame f s = .next t) :
    s.OnlyPort t := by
  have hrun : ¬ (s.proto = .idle ∧ s.status = .running) := by
    rintro ⟨-, h⟩
    simp [h, Status.ended] at hs
  cases f with
  | step | stepIgnoring =>
    rw [handleFrame, if_neg hrun] at e
    cases e
    rfl
  | setBreakpoint | clearBreakpoint =>
    cases e
    rfl
  | key b =>
    simp only [handleFrame] at e
    split at e
    case h_1 hw => simp [hw, Status.ended] at hs
    case h_2 => cases e; rfl
  | string l =>
    simp only [handleFrame] at e
    split at e
    case h_1 hw => simp [hw, Status.ended] at hs
    case h_2 => cases e; rfl
  | requestDump =>
    cases e
    exact s.onlyPort_emitAll [_]
  | requestMemory lo hi =>
    rw [handleFrame] at e
    split at e <;> cases e
    · exact s.onlyPort_emitAll _
    · rw [State.closeSession_of_ended hs]
      rfl

theorem onlyPort_of_portStep (hs : s.status.ended = true) (e : portStep s = .next t) : s.OnlyPort t := by
  have hclose : s.OnlyPort s.closeSession := by
    rw [State.closeSession_of_ended hs]
    rfl
  unfold portStep at e
  split at e
  case h_1 f r _ => exact onlyPort_of_handleFrame (s := s.withInbox r) hs f e
  case h_2 => cases e; exact hclose
  case h_3 =>
    split at e <;> cases e
    · exact hclose
    · rfl

theorem step_ended_direct (hs : s.status.ended = true) (hm : s.mode = .direct) : step s = .fault .runEnded := by
  simp [step, boundary, hs, hm]

theorem step_ended_closed (hs : s.status.ended = true) (hm : s.mode = .piped) (ho : s.host.sessionClosed = true) :
    step s = .fault .runEnded := by
  simp [step, boundary, hs, hm, ho]

theorem onlyPort_of_step (hs : s.status.ended = true) (e : step s = .next t) : s.OnlyPort t := by
  cases hm : s.mode with
  | direct => simp [step_ended_direct hs hm] at e
  | piped =>
    cases ho : s.host.sessionClosed with
    | true => simp [step_ended_closed hs hm ho] at e
    | false => exact onlyPort_of_portStep hs (step_eq_portStep_of_ended hm ho hs ▸ e)

end

theorem exitCode_of_ended {st : Status} (h : st.ended = true) :
    ∃ n, exitCode st = some n ∧ (n = 0 ↔ ∃ r, st = .halted r) := by
  cases st with
  | running | waitKey | waitStr => cases h
  | halted r => exact ⟨0, rfl, fun _ => ⟨r, rfl⟩, fun _ => rfl⟩
  | crashed | cancelled => exact ⟨_, rfl, nofun, nofun⟩

theorem exitCode_of_not_ended {st : Status} (h : st.ended = false) : exitCode st = none := by
  cases st with
  | running | waitKey | waitStr => rfl
  | halted | crashed | cancelled => cases h

/-- Settles O55: a step of an ended run faults or handles a frame (`onlyPort_of_step`), and the exit code goes by the
status alone. -/
theorem endedRunsRunNothing : Obligations.EndedRunsRunNothing := by
  unfold Obligations.EndedRunsRunNothing
  exact fun s => ⟨fun hs => ⟨step_ended_direct hs, fun t e => onlyPort_of_step hs e, exitCode_of_ended hs⟩,
    exitCode_of_not_ended⟩

/-! ### cancellation and protocol errors -/

section
variable {s : State} (hs : s.status.ended = false)
include hs

theorem step_of_cancelPending (hc : s.host.cancelPending = true) : step s = .next s.cancel := by
  simp [step, boundary, hs, hc]

theorem step_of_sessionClosed (hc : s.host.cancelPending = false) (hm : s.mode = .piped)
    (ho : s.host.sessionClosed = true) : step s = .next s.cancel := by
  simp [step, boundary, hs, hc, hm, ho]

end

/-- What ends a session with an error (60_exceptions.md R320, R323): an unknown first byte, a frame that the end of the
stream cuts off, or a bad memory request. -/
def State.ProtocolError (s : State) : Prop :=
  parseFrame s.host.inbox = .unknown ∨ (parseFrame s.host.inbox = .incomplete ∧ s.host.inboxClosed = true) ∨
    ∃ lo hi r, parseFrame s.host.inbox = .frame (.requestMemory lo hi) r ∧ (hi.toNat < lo.toNat ∨ 0xFFFE < hi.toNat)

/-- A protocol error closes the session, the frame it lies in being read. -/
theorem portStep_of_protocolError {s : State} (h : s.ProtocolError) :
    ∃ inbox, portStep s = .next (s.withInbox inbox).closeSession := by
  rcases h with h | ⟨h, hclosed⟩ | ⟨lo, hi, r, h, hbad⟩
  · exact ⟨s.host.inbox, by simp only [portStep, h]; rfl⟩
  · exact ⟨s.host.inbox, by simp only [portStep, h, if_pos hclosed]; rfl⟩
  · exact ⟨r, (portStep_of_frame h).trans (handleFrame_requestMemory_of_bad hbad)⟩

/-- Settles O58: a pending cancellation and a closed session cancel at the boundary, and a protocol error closes the
session of a run that has not ended. -/
theorem protocolErrorsAndCancellation : Obligations.ProtocolErrorsAndCancellation := by
  unfold Obligations.ProtocolErrorsAndCancellation
  intro s hs
  refine ⟨step_of_cancelPending hs, fun hc hm ho => ?closed, fun hc hm ho herror => ?error⟩
  case closed => exact ⟨_, step_of_sessionClosed hs hc hm ho, rfl, rfl⟩
  case error =>
    obtain ⟨inbox, hport⟩ := portStep_of_protocolError herror
    rw [State.closeSession_of_not_ended (s := s.withInbox inbox) hs] at hport
    exact ⟨_, (step_eq_portStep hm hc ho hs).trans hport, rfl, rfl⟩

end Sys2Proof.Machine
end

section
/-! SUPPORT. Reset, the tape file and boot (70_reset_and_hazards.md R350 to R354, R365): what each field reader of the
loader accepts, and the state a boot begins with, whose first end-of-ops check boot makes. -/
namespace Sys2Proof.Machine

/-! ### the fields of a tape file -/

/-- A reader after another answers only where the first answers. -/
theorem bind_eq_ok {ε α β : Type} {x : Except ε α} {f : α → Except ε β} {b : β} (h : (x >>= f) = .ok b) :
    ∃ a, x = .ok a ∧ f a = .ok b := by
  cases x with
  | error => cases h
  | ok a => exact ⟨a, rfl, h⟩

section
variable {bs x rest : List Byte}

theorem takeField_eq_ok_iff {n : Nat} : takeField n bs = .ok (x, rest) ↔ x.length = n ∧ bs = x ++ rest := by
  unfold takeField
  constructor
  · intro h
    split at h
    case isTrue hn =>
      cases h
      exact ⟨List.length_take_of_le hn, (List.take_append_drop n bs).symm⟩
    case isFalse => cases h
  · rintro ⟨rfl, rfl⟩
    simp

/-- A length byte and the bytes it counts, where the limit of the field fits the byte. -/
theorem takeShort_eq_ok_iff {max : Nat} (hmax : max ≤ 255) {e : ImageError} :
    takeShort max e bs = .ok (x, rest) ↔ x.length ≤ max ∧ bs = BitVec.ofNat 8 x.length :: x ++ rest := by
  constructor
  · intro h
    cases bs with
    | nil => cases h
    | cons n bs =>
      rw [takeShort] at h
      split at h
      case isTrue => cases h
      case isFalse hn =>
        obtain ⟨hlen, rfl⟩ := takeField_eq_ok_iff.1 h
        exact ⟨by omega, by simp [hlen]⟩
  · rintro ⟨hx, rfl⟩
    have hcount : (BitVec.ofNat 8 x.length).toNat = x.length := by
      rw [BitVec.toNat_ofNat]
      omega
    rw [List.cons_append, takeShort, hcount, if_neg (Nat.not_lt.2 hx)]
    exact takeField_eq_ok_iff.2 ⟨rfl, rfl⟩

/-- The 2-byte length joins again (`be16_parts`), so a region reader accepts the bytes of a region that fits it. -/
theorem takeRegion_eq_ok_iff :
    takeRegion bs = .ok (x, rest) ↔ x.length ≤ Config.regionMax ∧ bs = regionBytes x ++ rest := by
  constructor
  · intro h
    unfold takeRegion at h
    split at h
    case h_1 hi lo bs =>
      obtain ⟨hlen, rfl⟩ := takeField_eq_ok_iff.1 h
      have hfits := (be16 hi lo).isLt
      have hcount : BitVec.ofNat 16 x.length = be16 hi lo := by rw [hlen, BitVec.ofNat_toNat, BitVec.setWidth_eq]
      exact ⟨by rw [Config.regionMax]; omega, by simp [regionBytes, hcount]⟩
    case h_2 => cases h
  · rintro ⟨hx, rfl⟩
    have hcount : (BitVec.ofNat 16 x.length).toNat = x.length := by
      rw [BitVec.toNat_ofNat]
      rw [Config.regionMax] at hx
      omega
    rw [regionBytes, List.cons_append, List.cons_append, takeRegion, be16_parts, hcount]
    exact takeField_eq_ok_iff.2 ⟨rfl, rfl⟩

end

/-! ### the tape file -/

section
variable {magic : List Byte} {i : Image}

theorem Image.wellFormed_iff : i.wellFormed = true ↔
    i.name.length ≤ Config.nameMax ∧ i.version.length ≤ Config.verMax ∧ i.ops.length ≤ Config.regionMax ∧
      i.strings.length ≤ Config.regionMax ∧ i.data.length ≤ Config.regionMax := by
  simp [Image.wellFormed, and_assoc]

/-- The loader reads an image's tape file to its end and then looks whether bytes follow. -/
theorem parseImage_tapeFile_append (hmagic : magic.length = 3) (hi : i.wellFormed = true) (rest : List Byte) :
    parseImage magic (tapeFile magic i ++ rest) = if rest = [] then .ok i else .error .trailing := by
  obtain ⟨hname, hversion, hops, hstrings, hdata⟩ := Image.wellFormed_iff.1 hi
  have start (r : List Byte) : takeField 3 (magic ++ r) = .ok (magic, r) := takeField_eq_ok_iff.2 ⟨hmagic, rfl⟩
  have name (r : List Byte) : takeShort Config.nameMax .nameTooLong (BitVec.ofNat 8 i.name.length :: i.name ++ r) =
      .ok (i.name, r) := (takeShort_eq_ok_iff (by decide)).2 ⟨hname, rfl⟩
  have version (r : List Byte) : takeShort Config.verMax .versionTooLong
      (BitVec.ofNat 8 i.version.length :: i.version ++ r) = .ok (i.version, r) :=
    (takeShort_eq_ok_iff (by decide)).2 ⟨hversion, rfl⟩
  have region {x : List Byte} (hx : x.length ≤ Config.regionMax) (r : List Byte) :
      takeRegion (regionBytes x ++ r) = .ok (x, r) := takeRegion_eq_ok_iff.2 ⟨hx, rfl⟩
  simp only [parseImage, tapeFile, List.append_assoc, start, name, version, region hops, region hstrings, region hdata,
    bind, Except.bind, ne_eq, not_true_eq_false, if_false]

/-- What the loader accepts is the fields it read, one after another to the end of the file. -/
theorem eq_tapeFile_of_parseImage {bs : List Byte} (h : parseImage magic bs = .ok i) :
    i.wellFormed = true ∧ bs = tapeFile magic i := by
  simp only [parseImage] at h
  obtain ⟨start, hstart, h⟩ := bind_eq_ok h
  split_ifs at h with hmagic
  · cases h
  obtain ⟨name, hname, h⟩ := bind_eq_ok h
  obtain ⟨version, hversion, h⟩ := bind_eq_ok h
  obtain ⟨ops, hops, h⟩ := bind_eq_ok h
  obtain ⟨strings, hstrings, h⟩ := bind_eq_ok h
  obtain ⟨data, hdata, h⟩ := bind_eq_ok h
  split_ifs at h with hend
  cases h
  obtain ⟨-, estart⟩ := takeField_eq_ok_iff.1 hstart
  obtain ⟨lname, ename⟩ := (takeShort_eq_ok_iff (by decide)).1 hname
  obtain ⟨lversion, eversion⟩ := (takeShort_eq_ok_iff (by decide)).1 hversion
  obtain ⟨lops, eops⟩ := takeRegion_eq_ok_iff.1 hops
  obtain ⟨lstrings, estrings⟩ := takeRegion_eq_ok_iff.1 hstrings
  obtain ⟨ldata, edata⟩ := takeRegion_eq_ok_iff.1 hdata
  refine ⟨Image.wellFormed_iff.2 ⟨lname, lversion, lops, lstrings, ldata⟩, ?_⟩
  rw [estart, Classical.not_not.1 hmagic, ename, eversion, eops, estrings, edata, hend, List.append_nil]
  simp only [tapeFile, List.append_assoc]

end

/-- A started boot runs from the image, and a failed one has a nonzero exit code. -/
theorem bootFile_spec (p : Params) (m : RunMode) (h : HostSide) (bs : List Byte) :
    (∀ i, parseImage p.magic bs = .ok i → bootFile p m h bs = .started (boot p m h i)) ∧
      ∀ e, parseImage p.magic bs = .error e →
        ∃ d n, bootFile p m h bs = .failed e d n ∧ (bootFile p m h bs).exitCode = some n ∧ n ≠ 0 := by
  refine ⟨fun i hi => by rw [bootFile, hi], fun e he => ?_⟩
  have hfailed : bootFile p m h bs = .failed e (Config.imageDiagnostic bs) (Config.imageExit bs + 1) := by
    rw [bootFile, he]
  exact ⟨_, _, hfailed, by rw [hfailed]; rfl, Nat.succ_ne_zero _⟩

/-- Settles O59: the loader reads a tape file to its end (`parseImage_tapeFile_append`) and accepts nothing else
(`eq_tapeFile_of_parseImage`). -/
theorem tapeFileRoundTrip : Obligations.TapeFileRoundTrip := by
  unfold Obligations.TapeFileRoundTrip
  refine ⟨fun magic hmagic => ⟨fun bs i => ⟨eq_tapeFile_of_parseImage, ?accepts⟩, fun i b bs hi => ?trailing⟩,
    bootFile_spec⟩
  case accepts =>
    rintro ⟨hi, rfl⟩
    simpa using parseImage_tapeFile_append hmagic hi []
  case trailing => simpa using parseImage_tapeFile_append hmagic hi (b :: bs)

/-! ### the state after boot -/

/-- The reset state of a device with an image in its regions. -/
def State.loaded (p : Params) (m : RunMode) (h : HostSide) (i : Image) : State :=
  { State.reset with ops := i.ops, str := i.strings, data := i.data, mode := m, params := p, host := h }

section
variable (p : Params) (m : RunMode) (h : HostSide) (i : Image)

/-- Boot makes the end-of-ops check of its run mode once, before the first instruction (70_reset_and_hazards.md R354,
60_exceptions.md R319). -/
theorem boot_eq_endTurn_loaded : boot p m h i = (State.loaded p m h i).endTurn := by
  cases m with
  | direct => rfl
  | piped =>
    have hend : ((State.loaded p .piped h i).status = .running ∧
        (State.loaded p .piped h i).pc.toNat = (State.loaded p .piped h i).ops.length) ↔ i.ops = [] := by
      simp [State.loaded, State.reset, eq_comm (a := 0)]
    rw [State.endTurn_piped rfl, State.checkEnd]
    by_cases hops : i.ops = []
    · exact (if_pos hops).trans (if_pos (hend.2 hops)).symm
    · exact (if_neg hops).trans (if_neg (mt hend.1 hops)).symm

theorem boot_eq_loaded (hops : m = .piped → i.ops ≠ []) : boot p m h i = State.loaded p m h i := by
  cases m with
  | direct => rfl
  | piped => exact if_neg (hops rfl)

theorem State.loaded_handle (f : Byte) : (State.loaded p m h i).handle f = ⟨false, 0⟩ := by
  simp [State.loaded, State.reset, State.handle]

theorem State.loaded_stored (hp : p.wellFormed = true) (hi : i.wellFormed = true) : (State.loaded p m h i).Stored := by
  obtain ⟨-, -, hops, hstrings, hdata⟩ := Image.wellFormed_iff.1 hi
  refine ⟨reset_mem_wf, ⟨hops, hstrings, hdata⟩, List.nodup_nil, fun f hf => ?_, hp⟩
  rw [State.loaded_handle] at hf
  cases hf

theorem boot_inv (hp : p.wellFormed = true) (hi : i.wellFormed = true) : (boot p m h i).Inv := by
  rw [boot_eq_endTurn_loaded]
  exact State.inv_endTurn (State.loaded_stored p m h i hp hi) (State.steady_of_running rfl rfl)

end

/-- Settles O53: boot is the end of a turn of the loaded reset state (`boot_eq_endTurn_loaded`), and reset itself is a
boot in direct mode from an image without anything in it. -/
theorem invariantHoldsAfterBoot : Obligations.InvariantHoldsAfterBoot := by
  unfold Obligations.InvariantHoldsAfterBoot
  exact ⟨boot_inv Params.standard .direct .fresh ⟨[], [], [], [], []⟩ Params.standard_wellFormed (by decide), boot_inv⟩

/-- Settles O60: boot gives the loaded reset state (`boot_eq_loaded`), which has the reset state's registers and so its
dump. -/
theorem stateAfterReset : Obligations.StateAfterReset := by
  unfold Obligations.StateAfterReset
  intro p m h i hops
  rw [boot_eq_loaded p m h i hops]
  have hhandles (f : Byte) : ((State.loaded p m h i).handle f).opened = false ∧
      ((State.loaded p m h i).handle f).cursor = 0 := by
    rw [State.loaded_handle]
    exact ⟨rfl, rfl⟩
  have hdump : State.reset.dump = [0, 0, 0, 0, 0, 0, 0xFF, 0xFF, 0xFF, 0xFF, 0, 0, 0, 0, 0, 0] := by decide
  exact ⟨rfl, rfl, rfl, rfl, rfl, rfl, rfl, rfl, rfl, rfl, rfl, fun _ => rfl, rfl, rfl, rfl, hhandles, rfl, rfl, rfl,
    rfl, rfl, rfl, hdump⟩

end Sys2Proof.Machine
end
